-- ==== Sys2Proof/Word.lean ====
section
/-! DEFINITION. The bit-vector types the 32-bit Nios CPU is built from (spec 00_scope R2, R8, R12). -/

namespace Sys2Proof

/-- A word: 32 bits, the width of a register, of the ALU and of the data bus (R2, R12). -/
abbrev Word := BitVec 32

/-- A half-word: 16 bits, the width of an instruction (R2, R12). -/
abbrev Half := BitVec 16

/-- A byte: 8 bits (R12). -/
abbrev Byte := BitVec 8

/-- A 33-bit byte address: the program counter and the address bus (R2, R40). -/
abbrev Addr := BitVec 33

/-- The 5-bit number of one of the 32 visible registers (R30, R131). -/
abbrev RegIx := BitVec 5

end Sys2Proof
end

