-- ==== Sys2Proof/Syntax.lean ====
section
/-! DEFINITION. The 64 instructions of the 32-bit Nios CPU, one constructor per row of
spec/opcode_table.json (spec 30_encoding R150), in the table's order. A field holds the bits of the
instruction word that R131 names: `a` is A, `b` is B, `p` is the field P of LDP and STP, `imm…` is the
immediate of that width. -/

namespace Sys2Proof

/-- One instruction. The four logic instructions carry the raw field `w[9:5]` (`bi`), which is the
register number B or the constant IMM5 as the flag P says when the instruction executes (R144, R215). -/
inductive Instr where
  | add    (a b : RegIx)
  | addi   (a : RegIx) (imm5 : BitVec 5)
  | sub    (a b : RegIx)
  | subi   (a : RegIx) (imm5 : BitVec 5)
  | cmp    (a b : RegIx)
  | cmpi   (a : RegIx) (imm5 : BitVec 5)
  | lsl    (a b : RegIx)
  | lsli   (a : RegIx) (imm5 : BitVec 5)
  | lsr    (a b : RegIx)
  | lsri   (a : RegIx) (imm5 : BitVec 5)
  | asr    (a b : RegIx)
  | asri   (a : RegIx) (imm5 : BitVec 5)
  | mov    (a b : RegIx)
  | movi   (a : RegIx) (imm5 : BitVec 5)
  | and    (a : RegIx) (bi : BitVec 5)
  | andn   (a : RegIx) (bi : BitVec 5)
  | or     (a : RegIx) (bi : BitVec 5)
  | xor    (a : RegIx) (bi : BitVec 5)
  | bgen   (a : RegIx) (imm5 : BitVec 5)
  | ext8d  (a b : RegIx)
  | skp0   (a : RegIx) (imm5 : BitVec 5)
  | skp1   (a : RegIx) (imm5 : BitVec 5)
  | ld     (a b : RegIx)
  | st     (a b : RegIx)
  | sts8s  (imm10 : BitVec 10)
  | sts16s (imm9 : BitVec 9)
  | ext16d (a b : RegIx)
  | movhi  (a : RegIx) (imm5 : BitVec 5)
  | ext8s  (a : RegIx) (imm2 : BitVec 2)
  | ext16s (a : RegIx) (imm1 : BitVec 1)
  | st8s   (a : RegIx) (imm2 : BitVec 2)
  | st16s  (a : RegIx) (imm1 : BitVec 1)
  | save   (imm8 : BitVec 8)
  | trap   (imm6 : BitVec 6)
  | not    (a : RegIx)
  | neg    (a : RegIx)
  | abs    (a : RegIx)
  | sext8  (a : RegIx)
  | sext16 (a : RegIx)
  | rlc    (a : RegIx)
  | rrc    (a : RegIx)
  | swap   (a : RegIx)
  | restore
  | tret   (a : RegIx)
  | st8d   (a : RegIx)
  | st16d  (a : RegIx)
  | fill8  (a : RegIx)
  | fill16 (a : RegIx)
  | mstep  (a : RegIx)
  | mul    (a : RegIx)
  | skprz  (a : RegIx)
  | skps   (imm4 : BitVec 4)
  | wrctl  (a : RegIx)
  | rdctl  (a : RegIx)
  | skprnz (a : RegIx)
  | jmp    (a : RegIx)
  | call   (a : RegIx)
  | br     (imm11 : BitVec 11)
  | bsr    (imm11 : BitVec 11)
  | pfx    (imm11 : BitVec 11)
  | stp    (a : RegIx) (p : BitVec 2) (imm5 : BitVec 5)
  | ldp    (a : RegIx) (p : BitVec 2) (imm5 : BitVec 5)
  | sts    (a : RegIx) (imm8 : BitVec 8)
  | lds    (a : RegIx) (imm8 : BitVec 8)
  deriving DecidableEq, Repr

/-- Why a word, or a run of bytes, is no instruction (30_encoding R140, R147). -/
inductive Reject where
  /-- The word falls in an empty row of the opcode table. -/
  | emptyRow
  /-- A bit that the format prints as a literal 0 is 1 (R140, D12). -/
  | mustBeZero
  /-- SKPS with condition number 14 or 15 (R311, D31). -/
  | skpsCondition
  /-- The MUL word on a CPU without MUL (R139, D30). -/
  | mulAbsent
  /-- Fewer than two bytes: every instruction is 16 bits (R130). -/
  | tooShort
  deriving DecidableEq, Repr

end Sys2Proof
end

