-- ==== Sys2Proof/WellFormed.lean ====
section
/-! DEFINITION. Which instructions exist. The field widths are in the types, so two checks are left:
SKPS has 14 conditions (spec 44_control_flow R311) and MUL is optional (30_encoding R139). -/

namespace Sys2Proof

/-- Whether `i` is an instruction of a CPU that has MUL or not, as `hasMul` says. -/
def Instr.wellFormed (hasMul : Bool) : Instr → Bool
  | .skps imm4 => decide (imm4.toNat < 14)
  | .mul _ => hasMul
  | .add _ _ | .addi _ _ | .sub _ _ | .subi _ _ | .cmp _ _ | .cmpi _ _
  | .lsl _ _ | .lsli _ _ | .lsr _ _ | .lsri _ _ | .asr _ _ | .asri _ _
  | .mov _ _ | .movi _ _ | .and _ _ | .andn _ _ | .or _ _ | .xor _ _ | .bgen _ _
  | .ext8d _ _ | .skp0 _ _ | .skp1 _ _ | .ld _ _ | .st _ _ | .sts8s _ | .sts16s _
  | .ext16d _ _ | .movhi _ _ | .ext8s _ _ | .ext16s _ _ | .st8s _ _ | .st16s _ _
  | .save _ | .trap _ | .not _ | .neg _ | .abs _ | .sext8 _ | .sext16 _
  | .rlc _ | .rrc _ | .swap _ | .restore | .tret _ | .st8d _ | .st16d _
  | .fill8 _ | .fill16 _ | .mstep _ | .skprz _ | .wrctl _ | .rdctl _ | .skprnz _
  | .jmp _ | .call _ | .br _ | .bsr _ | .pfx _ | .stp _ _ _ | .ldp _ _ _
  | .sts _ _ | .lds _ _ => true

end Sys2Proof
end

