-- ==== Sys2Proof/Decode.lean ====
section
/-! DEFINITION. Decoding and encoding (spec 30_encoding R130 to R150). The decoder is total on all 65536
words and on any list of bytes, and rejects by name. -/

namespace Sys2Proof

/-! ## Bytes of an instruction -/

/-- The half-word whose byte at the lower address is `b0`: little-endian (20_memory R91, R92). -/
def halfOfBytes (b0 b1 : Byte) : Half := b1 ++ b0

/-- The two bytes of a half-word, the one at the lower address first (20_memory R91, R92). -/
def bytesOfHalf (w : Half) : List Byte := [w.extractLsb' 0 8, w.extractLsb' 8 8]

/-! ## Decoding -/

/-- Group u, `op6 = 011101` (R136), with the literal 0 of format Ri1u (R140). -/
def decodeU (w : Half) : Except Reject Instr :=
  let a := w.extractLsb' 0 5
  let op3u := w.extractLsb' 7 3
  if op3u = 0b000#3 then .ok (.ext8s a (w.extractLsb' 5 2))
  else if op3u = 0b001#3 then
    if w.extractLsb' 5 1 = 0#1 then .ok (.ext16s a (w.extractLsb' 6 1)) else .error .mustBeZero
  else if op3u = 0b100#3 then .ok (.st8s a (w.extractLsb' 5 2))
  else if op3u = 0b101#3 then
    if w.extractLsb' 5 1 = 0#1 then .ok (.st16s a (w.extractLsb' 6 1)) else .error .mustBeZero
  else .error .emptyRow

/-- Group v, `op6 = 011110` (R137), with the literal 0s of format i6v (R140). -/
def decodeV (w : Half) : Except Reject Instr :=
  let op2v := w.extractLsb' 8 2
  if op2v = 0b00#2 then .ok (.save (w.extractLsb' 0 8))
  else if op2v = 0b01#2 then
    if w.extractLsb' 6 2 = 0#2 then .ok (.trap (w.extractLsb' 0 6)) else .error .mustBeZero
  else .error .emptyRow

/-- Group w, `op6 = 011111` (R138), with the literal 0s of formats w and i4w (R140), the two SKPS
words without a condition (R311) and the optional MUL (R139). -/
def decodeW (hasMul : Bool) (w : Half) : Except Reject Instr :=
  let a := w.extractLsb' 0 5
  let op5w := w.extractLsb' 5 5
  if op5w = 0b00000#5 then .ok (.not a)
  else if op5w = 0b00001#5 then .ok (.neg a)
  else if op5w = 0b00010#5 then .ok (.abs a)
  else if op5w = 0b00011#5 then .ok (.sext8 a)
  else if op5w = 0b00100#5 then .ok (.sext16 a)
  else if op5w = 0b00101#5 then .ok (.rlc a)
  else if op5w = 0b00110#5 then .ok (.rrc a)
  else if op5w = 0b01000#5 then .ok (.swap a)
  else if op5w = 0b01101#5 then
    if a = 0#5 then .ok .restore else .error .mustBeZero
  else if op5w = 0b01110#5 then .ok (.tret a)
  else if op5w = 0b10000#5 then .ok (.st8d a)
  else if op5w = 0b10001#5 then .ok (.st16d a)
  else if op5w = 0b10010#5 then .ok (.fill8 a)
  else if op5w = 0b10011#5 then .ok (.fill16 a)
  else if op5w = 0b10100#5 then .ok (.mstep a)
  else if op5w = 0b10101#5 then
    if hasMul then .ok (.mul a) else .error .mulAbsent
  else if op5w = 0b10110#5 then .ok (.skprz a)
  else if op5w = 0b10111#5 then
    if w.extractLsb' 4 1 = 0#1 then
      if (w.extractLsb' 0 4).toNat < 14 then .ok (.skps (w.extractLsb' 0 4)) else .error .skpsCondition
    else .error .mustBeZero
  else if op5w = 0b11000#5 then .ok (.wrctl a)
  else if op5w = 0b11001#5 then .ok (.rdctl a)
  else if op5w = 0b11010#5 then .ok (.skprnz a)
  else if op5w = 0b11110#5 then .ok (.jmp a)
  else if op5w = 0b11111#5 then .ok (.call a)
  else .error .emptyRow

/-- The op6 space, `w[15] = 0` (R135). Bits 9:5 are the B or the IMM5 of the row's format. -/
def decodeOp6 (hasMul : Bool) (w : Half) : Except Reject Instr :=
  let op6 := w.extractLsb' 10 6
  let a := w.extractLsb' 0 5
  let bi := w.extractLsb' 5 5
  if op6 = 0b000000#6 then .ok (.add a bi)
  else if op6 = 0b000001#6 then .ok (.addi a bi)
  else if op6 = 0b000010#6 then .ok (.sub a bi)
  else if op6 = 0b000011#6 then .ok (.subi a bi)
  else if op6 = 0b000100#6 then .ok (.cmp a bi)
  else if op6 = 0b000101#6 then .ok (.cmpi a bi)
  else if op6 = 0b000110#6 then .ok (.lsl a bi)
  else if op6 = 0b000111#6 then .ok (.lsli a bi)
  else if op6 = 0b001000#6 then .ok (.lsr a bi)
  else if op6 = 0b001001#6 then .ok (.lsri a bi)
  else if op6 = 0b001010#6 then .ok (.asr a bi)
  else if op6 = 0b001011#6 then .ok (.asri a bi)
  else if op6 = 0b001100#6 then .ok (.mov a bi)
  else if op6 = 0b001101#6 then .ok (.movi a bi)
  else if op6 = 0b001110#6 then .ok (.and a bi)
  else if op6 = 0b001111#6 then .ok (.andn a bi)
  else if op6 = 0b010000#6 then .ok (.or a bi)
  else if op6 = 0b010001#6 then .ok (.xor a bi)
  else if op6 = 0b010010#6 then .ok (.bgen a bi)
  else if op6 = 0b010011#6 then .ok (.ext8d a bi)
  else if op6 = 0b010100#6 then .ok (.skp0 a bi)
  else if op6 = 0b010101#6 then .ok (.skp1 a bi)
  else if op6 = 0b010110#6 then .ok (.ld a bi)
  else if op6 = 0b010111#6 then .ok (.st a bi)
  else if op6 = 0b011000#6 then .ok (.sts8s (w.extractLsb' 0 10))
  else if op6 = 0b011001#6 then
    if w.extractLsb' 0 1 = 0#1 then .ok (.sts16s (w.extractLsb' 1 9)) else .error .mustBeZero
  else if op6 = 0b011010#6 then .ok (.ext16d a bi)
  else if op6 = 0b011011#6 then .ok (.movhi a bi)
  else if op6 = 0b011101#6 then decodeU w
  else if op6 = 0b011110#6 then decodeV w
  else if op6 = 0b011111#6 then decodeW hasMul w
  else .error .emptyRow

/-- The instruction a word stands for, in the order of R134. `hasMul` is the parameter `HAS_MUL`. -/
def decode (hasMul : Bool) (w : Half) : Except Reject Instr :=
  let a := w.extractLsb' 0 5
  if w.extractLsb' 13 3 = 0b111#3 then .ok (.lds a (w.extractLsb' 5 8))
  else if w.extractLsb' 13 3 = 0b110#3 then .ok (.sts a (w.extractLsb' 5 8))
  else if w.extractLsb' 12 4 = 0b1011#4 then .ok (.ldp a (w.extractLsb' 10 2) (w.extractLsb' 5 5))
  else if w.extractLsb' 12 4 = 0b1010#4 then .ok (.stp a (w.extractLsb' 10 2) (w.extractLsb' 5 5))
  else if w.extractLsb' 11 5 = 0b10011#5 then .ok (.pfx (w.extractLsb' 0 11))
  else if w.extractLsb' 11 5 = 0b10010#5 then .error .emptyRow
  else if w.extractLsb' 11 5 = 0b10001#5 then .ok (.bsr (w.extractLsb' 0 11))
  else if w.extractLsb' 11 5 = 0b10000#5 then .ok (.br (w.extractLsb' 0 11))
  else decodeOp6 hasMul w

/-- Decode the instruction at the head of a list of bytes, lowest address first, and return it with
the bytes after it (R130: every instruction is two bytes). -/
def decodeBytes (hasMul : Bool) : List Byte → Except Reject (Instr × List Byte)
  | b0 :: b1 :: rest =>
    match decode hasMul (halfOfBytes b0 b1) with
    | .ok i => .ok (i, rest)
    | .error e => .error e
  | _ => .error .tooShort

/-! ## Encoding: the formats of R132 and the table of R150 -/

/-- Formats RR and Ri5: op6, B or IMM5, A. -/
def formatRR (op6 : BitVec 6) (bi a : BitVec 5) : Half := op6 ++ bi ++ a
/-- Format RPi5: op4, P, IMM5, A. -/
def formatRPi5 (op4 : BitVec 4) (p : BitVec 2) (imm5 a : BitVec 5) : Half := op4 ++ p ++ imm5 ++ a
/-- Format Ri8: op3, IMM8, A. -/
def formatRi8 (op3 : BitVec 3) (imm8 : BitVec 8) (a : BitVec 5) : Half := op3 ++ imm8 ++ a
/-- Format i9: op6, IMM9, a literal 0. -/
def formatI9 (op6 : BitVec 6) (imm9 : BitVec 9) : Half := op6 ++ imm9 ++ 0#1
/-- Format i10: op6, IMM10. -/
def formatI10 (op6 : BitVec 6) (imm10 : BitVec 10) : Half := op6 ++ imm10
/-- Format i11: op5, IMM11. -/
def formatI11 (op5 : BitVec 5) (imm11 : BitVec 11) : Half := op5 ++ imm11
/-- Format Ri1u: op6 = 011101, op3u, IMM1u, a literal 0, A. -/
def formatRi1u (op3u : BitVec 3) (imm1 : BitVec 1) (a : BitVec 5) : Half :=
  0b011101#6 ++ op3u ++ imm1 ++ 0#1 ++ a
/-- Format Ri2u: op6 = 011101, op3u, IMM2u, A. -/
def formatRi2u (op3u : BitVec 3) (imm2 : BitVec 2) (a : BitVec 5) : Half :=
  0b011101#6 ++ op3u ++ imm2 ++ a
/-- Format i8v: op6 = 011110, op2v, IMM8v. -/
def formatI8v (op2v : BitVec 2) (imm8 : BitVec 8) : Half := 0b011110#6 ++ op2v ++ imm8
/-- Format i6v: op6 = 011110, op2v, two literal 0s, IMM6v. -/
def formatI6v (op2v : BitVec 2) (imm6 : BitVec 6) : Half := 0b011110#6 ++ op2v ++ 0#2 ++ imm6
/-- Format Rw: op6 = 011111, op5w, A. -/
def formatRw (op5w a : BitVec 5) : Half := 0b011111#6 ++ op5w ++ a
/-- Format i4w: op6 = 011111, op5w, a literal 0, IMM4w. -/
def formatI4w (op5w : BitVec 5) (imm4 : BitVec 4) : Half := 0b011111#6 ++ op5w ++ 0#1 ++ imm4
/-- Format w: op6 = 011111, op5w, five literal 0s. -/
def formatW (op5w : BitVec 5) : Half := 0b011111#6 ++ op5w ++ 0#5

/-- The word of an instruction (R150). -/
def encode : Instr → Half
  | .add a b => formatRR 0b000000#6 b a
  | .addi a imm5 => formatRR 0b000001#6 imm5 a
  | .sub a b => formatRR 0b000010#6 b a
  | .subi a imm5 => formatRR 0b000011#6 imm5 a
  | .cmp a b => formatRR 0b000100#6 b a
  | .cmpi a imm5 => formatRR 0b000101#6 imm5 a
  | .lsl a b => formatRR 0b000110#6 b a
  | .lsli a imm5 => formatRR 0b000111#6 imm5 a
  | .lsr a b => formatRR 0b001000#6 b a
  | .lsri a imm5 => formatRR 0b001001#6 imm5 a
  | .asr a b => formatRR 0b001010#6 b a
  | .asri a imm5 => formatRR 0b001011#6 imm5 a
  | .mov a b => formatRR 0b001100#6 b a
  | .movi a imm5 => formatRR 0b001101#6 imm5 a
  | .and a bi => formatRR 0b001110#6 bi a
  | .andn a bi => formatRR 0b001111#6 bi a
  | .or a bi => formatRR 0b010000#6 bi a
  | .xor a bi => formatRR 0b010001#6 bi a
  | .bgen a imm5 => formatRR 0b010010#6 imm5 a
  | .ext8d a b => formatRR 0b010011#6 b a
  | .skp0 a imm5 => formatRR 0b010100#6 imm5 a
  | .skp1 a imm5 => formatRR 0b010101#6 imm5 a
  | .ld a b => formatRR 0b010110#6 b a
  | .st a b => formatRR 0b010111#6 b a
  | .ext16d a b => formatRR 0b011010#6 b a
  | .movhi a imm5 => formatRR 0b011011#6 imm5 a
  | .sts8s imm10 => formatI10 0b011000#6 imm10
  | .sts16s imm9 => formatI9 0b011001#6 imm9
  | .ext8s a imm2 => formatRi2u 0b000#3 imm2 a
  | .ext16s a imm1 => formatRi1u 0b001#3 imm1 a
  | .st8s a imm2 => formatRi2u 0b100#3 imm2 a
  | .st16s a imm1 => formatRi1u 0b101#3 imm1 a
  | .save imm8 => formatI8v 0b00#2 imm8
  | .trap imm6 => formatI6v 0b01#2 imm6
  | .not a => formatRw 0b00000#5 a
  | .neg a => formatRw 0b00001#5 a
  | .abs a => formatRw 0b00010#5 a
  | .sext8 a => formatRw 0b00011#5 a
  | .sext16 a => formatRw 0b00100#5 a
  | .rlc a => formatRw 0b00101#5 a
  | .rrc a => formatRw 0b00110#5 a
  | .swap a => formatRw 0b01000#5 a
  | .restore => formatW 0b01101#5
  | .tret a => formatRw 0b01110#5 a
  | .st8d a => formatRw 0b10000#5 a
  | .st16d a => formatRw 0b10001#5 a
  | .fill8 a => formatRw 0b10010#5 a
  | .fill16 a => formatRw 0b10011#5 a
  | .mstep a => formatRw 0b10100#5 a
  | .mul a => formatRw 0b10101#5 a
  | .skprz a => formatRw 0b10110#5 a
  | .skps imm4 => formatI4w 0b10111#5 imm4
  | .wrctl a => formatRw 0b11000#5 a
  | .rdctl a => formatRw 0b11001#5 a
  | .skprnz a => formatRw 0b11010#5 a
  | .jmp a => formatRw 0b11110#5 a
  | .call a => formatRw 0b11111#5 a
  | .br imm11 => formatI11 0b10000#5 imm11
  | .bsr imm11 => formatI11 0b10001#5 imm11
  | .pfx imm11 => formatI11 0b10011#5 imm11
  | .stp a p imm5 => formatRPi5 0b1010#4 p imm5 a
  | .ldp a p imm5 => formatRPi5 0b1011#4 p imm5 a
  | .sts a imm8 => formatRi8 0b110#3 imm8 a
  | .lds a imm8 => formatRi8 0b111#3 imm8 a

/-- The bytes of an instruction as memory holds them, lowest address first. -/
def encodeBytes (i : Instr) : List Byte := bytesOfHalf (encode i)

/-! ## The host's question -/

/-- The instruction the decoder reads from an opcode-table row's word `w`: bits at and above `nbits`
are 0, the two bytes are laid out as memory holds them. The table lists MUL, so `HAS_MUL` is true here. -/
def decodeTableWord (nbits w : Nat) : Option Instr :=
  match decodeBytes true (bytesOfHalf (BitVec.ofNat 16 (w % 2 ^ nbits))) with
  | .ok (i, _) => some i
  | .error _ => none

end Sys2Proof
end

