-- ==== Sys2Proof/Config.lean ====
section
/-! DEFINITION. What one CPU implementation fixes (spec 00_scope R7), and the free values. -/

namespace Sys2Proof

/-- The three sizes of register file the CPU can be built with: parameter `NREG` (R7, R30). A
configuration with another size cannot be written (93 U7 refuses it). -/
inductive RegFileSize where
  | nreg128
  | nreg256
  | nreg512
  deriving DecidableEq, Repr

/-- The number of general-purpose registers of each size. -/
def RegFileSize.count : RegFileSize → Nat
  | .nreg128 => 128
  | .nreg256 => 256
  | .nreg512 => 512

/-- A range of byte addresses, `base` to `base + size - 1`. -/
structure Region where
  base : Nat
  size : Nat
  deriving DecidableEq, Repr

/-- The configuration of one CPU and of the platform it sits in: the parameters of R7, and where the
platform has placed nothing (20_memory R104). It is held in the state as plain data, so a statement
about every state is a statement about every configuration. No step changes it.

`VECBASE` must be a multiple of 4 (D3) and `RESET_PC` even (D4), and a configuration that breaks this
is refused (93 U7): both are held without the bits that must be zero, so it cannot be written. -/
structure Config where
  /-- `NREG`. -/
  nreg : RegFileSize
  /-- `VECBASE` divided by 4. -/
  vecBaseWord : BitVec 30
  /-- `RESET_PC` divided by 2. -/
  resetPcHalf : BitVec 32
  /-- `WVALID_WRITABLE`: whether WRCTL can change WVALID (R63, D5). -/
  wvalidWritable : Bool
  /-- `HAS_MUL`: whether the MUL instruction exists (R139, R190, D30). -/
  hasMul : Bool
  /-- The address ranges where the platform has placed nothing (R104, N6). -/
  absent : List Region
  deriving DecidableEq, Repr

/-- `CWP_MAX = NREG/16 - 2`, the highest valid window pointer: 6, 14 or 30 (R7, R35). -/
def Config.cwpMax (c : Config) : Nat := c.nreg.count / 16 - 2

/-- `VECBASE`, the byte address of the exception vector table (R7, 20_memory R103). -/
def Config.vecBase (c : Config) : Word := c.vecBaseWord ++ 0#2

/-- `RESET_PC`, the address of the first instruction after reset (R7, 70_reset R422). -/
def Config.resetPc (c : Config) : Addr := c.resetPcHalf ++ 0#1

/-- The configuration that `State.reset` takes: DESIGN CHOICE (log 1, log 9, log 26). `NREG` is the
manual's running example, `RESET_PC` and `VECBASE` are those of program P4 of the spec's test vectors. -/
def Config.default : Config where
  nreg := .nreg256
  vecBaseWord := 0#30
  resetPcHalf := 0x800#32
  wvalidWritable := true
  hasMul := true
  absent := []

/-- The free values: the n-th value that the spec leaves unspecified (93 U1: RDCTL of CLR_IE or
SET_IE). It has no body, so no proof can rest on what it is (log 7). -/
opaque Config.freeWord : Nat → Word

end Sys2Proof
end

