-- ==== Sys2Proof/Machine/State.lean ====
section
/-! DEFINITION. Everything the spec says the machine holds (spec 10_state), the reasons a step can
stop, and the state after reset (10_state R75 to R77). -/

namespace Sys2Proof.Machine

/-! ## Why a step stops -/

/-- The machine stops with a fault: the spec says that a model faults there (93_implementation_defined,
part 1). None is an exception of the CPU, which has none for any of these (60_exceptions R362). Each is
safe: the hardware does something there that the spec does not describe. -/
inductive Fault where
  /-- The word fetched is no instruction (30_encoding R140, R147; U8). Raised by the step when the
  decoder rejects the word, and by SKPS and MUL given as an instruction that does not exist. Safe. -/
  | unassigned (why : Reject)
  /-- PFX executed with P = 1 (44_control_flow R300; U2). Raised by PFX. Safe. -/
  | consecutivePfx
  /-- One of the twelve instructions of 44_control_flow R322 about to execute in a delay slot (U5).
  Raised by BR, BSR, JMP, CALL, SKP0, SKP1, SKPRz, SKPRnz, SKPS, TRAP, TRET, PFX. Safe. -/
  | forbiddenInDelaySlot
  /-- WRCTL to STATUS whose next executed word is not NOP (45_window_trap_control R342; U6). Raised by
  WRCTL. Safe. -/
  | wrctlNotFollowedByNop
  /-- RDCTL or WRCTL with K in 3..7 (10_state R66; U3). Safe. -/
  | reservedControlRegister
  /-- RDCTL or WRCTL with K in 10..2047 (10_state R67; U4). Safe. -/
  | undefinedControlRegister
  /-- An access to %r8..%r31 while CWP > CWP_MAX (10_state R35; U9). Raised by every instruction and
  exception entry that makes such an access. Safe. -/
  | windowOutsideFile
  /-- An access to an address where the platform has placed nothing (20_memory R104, N6). Raised by
  loads, stores, instruction fetch, the look-ahead of a taken skip and the vector fetch. Safe. -/
  | unpopulatedAddress
  deriving DecidableEq, Repr

/-- The model declines to say what happens. -/
inductive Refusal where
  /-- The instruction has no meaning in the model yet. Raised by an arm of `exec` only. Safe. -/
  | notModelled (mnemonic : String)
  /-- A half-word is fetched of which the CPU itself has stored a byte during the run (20_memory R109,
  D10; U11). Raised by instruction fetch, the look-ahead of a taken skip and the NOP check of WRCTL.
  Safe: the spec promises no behaviour there. -/
  | storedInstruction
  deriving DecidableEq, Repr

/-- What an operation answers: a value, a fault or a refusal. -/
abbrev Result (α : Type) := Host.Outcome α Fault Refusal

/-! ## The registers -/

/-- The condition code flags, STATUS[3:0] (10_state R56, R60). -/
structure Flags where
  n : Bool
  v : Bool
  z : Bool
  c : Bool
  deriving DecidableEq, Repr

/-- STATUS and ISTATUS: the fields take up all 16 bits (10_state R56, R62). -/
structure StatusReg where
  /-- Bit 15, interrupt enable (R57). -/
  ie : Bool
  /-- Bits 14:9, current interrupt priority (R58). -/
  ipri : BitVec 6
  /-- Bits 8:4, current window pointer (R59). -/
  cwp : BitVec 5
  /-- Bits 3:0. -/
  flags : Flags
  deriving DecidableEq, Repr

/-- The 10 defined bits of WVALID (10_state R63). -/
structure WvalidReg where
  /-- Bits 9:5, the highest window position software may use. -/
  hiLimit : BitVec 5
  /-- Bits 4:0, the lowest window position software may use. -/
  loLimit : BitVec 5
  deriving DecidableEq, Repr

/-- One sample of the two interrupt inputs (60_exceptions R364). -/
structure IrqSample where
  irq : Bool
  number : BitVec 6
  deriving DecidableEq, Repr

/-! ## Memory -/

/-- Memory over the whole 33-bit byte address space, as (address, byte) pairs in one canonical form
(`Memory.wf`). -/
abbrev Memory := List Host.Cell

/-- What a byte that nothing has written reads as: DESIGN CHOICE (log 5). -/
def unlistedByte : Byte := 0#8

/-- The canonical form: addresses strictly rising and inside the 33-bit space, and no byte listed that
equals `unlistedByte`. -/
def Memory.wf (m : Memory) : Bool :=
  decide (m.Pairwise (fun x y => x.1 < y.1)) &&
    m.all (fun x => decide (x.1 < 2 ^ 33) && decide (x.2 ≠ unlistedByte))

/-- The form of a list of addresses kept in rising order. -/
def risingAddrs (l : List Nat) : Bool := decide (l.Pairwise (· < ·))

/-! ## The state -/

/-- The machine. -/
structure State where
  /-- The parameters of the CPU and its platform (00_scope R7, 20_memory R104); no step changes them. -/
  cfg : Config
  /-- The register file: `G[i]` of 10_state R33 at index `i`, `W[j]` at index `8 + j`. A CPU with `NREG`
  registers uses the first `NREG` places (log 28). -/
  regs : Vector Word 512
  /-- The address of the instruction being executed (R40). -/
  pc : Addr
  /-- The pending branch target (R44). -/
  bt : Option Addr
  /-- The K register (R50). -/
  k : BitVec 11
  /-- The flag P: the previous instruction executed was a PFX (R52). -/
  p : Bool
  /-- STATUS, %ctl0 (R56). -/
  status : StatusReg
  /-- ISTATUS, %ctl1 (R62). -/
  istatus : StatusReg
  /-- WVALID, %ctl2 (R63). -/
  wvalid : WvalidReg
  /-- Memory (R70). -/
  mem : Memory
  /-- The MODEL's own: the addresses of the bytes the CPU has stored to, rising (20_memory R109, log 19). -/
  written : List Nat
  /-- The interrupt inputs at the instruction boundaries to come, the next one first; beyond the end of
  the list `irq` is 0 (60_exceptions R364, log 25). -/
  irqs : List IrqSample
  /-- The MODEL's own: how many free values have been used (93 U1, log 7). -/
  freeCount : Nat
  deriving DecidableEq, Repr

/-- The state after reset of a CPU with configuration `c` in its first run (10_state R75, R76; 70_reset R420,
R421). DESIGN CHOICE: the general-purpose registers and the flags, which the spec leaves unspecified, are 0
(log 2, log 3); memory, which is the environment's, lists nothing (log 5); and the samples of `irq` and
`irq_number`, which are the environment's and no CPU state (10_state R72, 60_exceptions R364), are the empty
list, so that no interrupt is ever requested in a run from this state (log 25). `State.resetFrom` is the same
event with the memory and the samples of the environment kept. -/
def State.resetWith (c : Config) : State where
  cfg := c
  regs := Vector.replicate 512 0#32
  pc := c.resetPc
  bt := none
  k := 0#11
  p := false
  status :=
    { ie := false, ipri := 63#6, cwp := BitVec.ofNat 5 c.cwpMax
      flags := { n := false, v := false, z := false, c := false } }
  istatus :=
    { ie := false, ipri := 0#6, cwp := 0#5
      flags := { n := false, v := false, z := false, c := false } }
  wvalid := { hiLimit := BitVec.ofNat 5 c.cwpMax, loLimit := 1#5 }
  mem := []
  written := []
  irqs := []
  freeCount := 0

/-- The machine right after reset, in the default configuration (log 1). -/
def State.reset : State := State.resetWith Config.default

end Sys2Proof.Machine
end

