-- ==== Sys2Proof/Machine/Flags.lean ====
section
/-! DEFINITION. Every flag computation the spec gives (spec 40_arithmetic R180, R181; 41_logic R215;
42_shift R257, R258; 44_control_flow R311), and STATUS as a 16-bit word (10_state R56). -/

namespace Sys2Proof.Machine

/-- `add_flags(a, b)` of R180: the result and the four flags. C is the carry out of the unbounded sum. -/
def addFlags (a b : Word) : Word × Flags :=
  let r := a + b
  (r, { n := r.msb
        v := a.msb == b.msb && r.msb != a.msb
        z := r == 0#32
        c := decide (2 ^ 32 ≤ a.toNat + b.toNat) })

/-- `sub_flags(a, b)` of R181: the result and the four flags. C is the borrow: a below b, unsigned. -/
def subFlags (a b : Word) : Word × Flags :=
  let r := a - b
  (r, { n := r.msb
        v := a.msb != b.msb && r.msb != a.msb
        z := r == 0#32
        c := decide (a.toNat < b.toNat) })

/-- `logic_flags(r)` of R215: N and Z from the result, V and C kept. -/
def logicFlags (r : Word) (f : Flags) : Flags := { f with n := r.msb, z := r == 0#32 }

/-- RLC's 33-bit rotate of C : x to the left (R257, D20, log 23): the new register and the new C. -/
def rotateLeftCarry (x : Word) (c : Bool) : Word × Bool :=
  (x.extractLsb' 0 31 ++ BitVec.ofBool c, x.getLsbD 31)

/-- RRC's 33-bit rotate of C : x to the right (R258, D20, log 23): the new register and the new C. -/
def rotateRightCarry (x : Word) (c : Bool) : Word × Bool :=
  (BitVec.ofBool c ++ x.extractLsb' 1 31, x.getLsbD 0)

/-- The SKPS condition table (R311). Codes 14 and 15 have no row. -/
def skpsCondition (imm4 : BitVec 4) (f : Flags) : Option Bool :=
  match imm4.toNat with
  | 0 => some f.c
  | 1 => some (!f.c)
  | 2 => some f.z
  | 3 => some (!f.z)
  | 4 => some f.n
  | 5 => some (!f.n)
  | 6 => some (!(f.n ^^ f.v))
  | 7 => some (f.n ^^ f.v)
  | 8 => some (f.z || (f.n ^^ f.v))
  | 9 => some (!(f.z || (f.n ^^ f.v)))
  | 10 => some f.v
  | 11 => some (!f.v)
  | 12 => some (f.c || f.z)
  | 13 => some (!(f.c || f.z))
  | _ => none

/-- The flags as STATUS[3:0] = N : V : Z : C (R56). -/
def Flags.toBits (f : Flags) : BitVec 4 :=
  BitVec.ofBool f.n ++ BitVec.ofBool f.v ++ BitVec.ofBool f.z ++ BitVec.ofBool f.c

/-- The flags that four bits N : V : Z : C stand for (R56). -/
def Flags.ofBits (w : BitVec 4) : Flags where
  n := w.getLsbD 3
  v := w.getLsbD 2
  z := w.getLsbD 1
  c := w.getLsbD 0

/-- STATUS or ISTATUS as its 16 bits, `IE : IPRI : CWP : N : V : Z : C` (R56, R339). -/
def StatusReg.toBits (s : StatusReg) : Half :=
  BitVec.ofBool s.ie ++ s.ipri ++ s.cwp ++ s.flags.toBits

/-- The fields of a 16-bit value written to STATUS or ISTATUS (R56, R341). -/
def StatusReg.ofBits (w : Half) : StatusReg where
  ie := w.getLsbD 15
  ipri := w.extractLsb' 9 6
  cwp := w.extractLsb' 4 5
  flags := Flags.ofBits (w.extractLsb' 0 4)

/-- WVALID as its 16 bits, `000000 : HI_LIMIT : LO_LIMIT` (R63, R339, D35). -/
def WvalidReg.toBits (w : WvalidReg) : Half := 0#6 ++ w.hiLimit ++ w.loLimit

/-- The fields of a 16-bit value written to WVALID: bits 15:10 are ignored (R63, R341, D35). -/
def WvalidReg.ofBits (w : Half) : WvalidReg where
  hiLimit := w.extractLsb' 5 5
  loLimit := w.extractLsb' 0 5

end Sys2Proof.Machine
end

