-- ==== Sys2Proof/Machine/Ops.lean ====
section
/-! DEFINITION. The named operations over registers, memory and control registers, taking an exception
and returning from one, and the fetch (spec 10_state R33 to R67, 20_memory R93 to R109, 60_exceptions). -/

namespace Sys2Proof.Machine

/-- Go on with the value an operation answers, or stop as it stopped. -/
def andThen {α β : Type} (r : Result α) (f : α → Result β) : Result β :=
  match r with
  | .next x => f x
  | .fault e => .fault e
  | .refused e => .refused e

/-! ## General-purpose registers -/

/-- No configuration has more than 31 usable windows (R7, R35). -/
theorem cwpMax_le (c : Config) : c.cwpMax ≤ 30 := by
  unfold Config.cwpMax
  cases c.nreg <;> decide

/-- The place in the register file of visible register `r` (R33): `G[r]` for r below 8, else
`W[16*CWP + (r - 8)]`, which is at `16*CWP + r`. None while the window lies outside the file (R35, D19,
log 15). -/
def physReg (c : Config) (cwp : BitVec 5) (r : RegIx) : Option (Fin 512) :=
  if r.toNat < 8 then some ⟨r.toNat, by omega⟩
  else if h : cwp.toNat ≤ c.cwpMax then
    some ⟨16 * cwp.toNat + r.toNat, by have := cwpMax_le c; omega⟩
  else none

/-- The place of visible register `r` in the current window. -/
def State.phys (s : State) (r : RegIx) : Option (Fin 512) := physReg s.cfg s.status.cwp r

/-- `x[r]`, the read of a visible register (R10, R33, R35). -/
def readReg (s : State) (r : RegIx) : Result Word :=
  match s.phys r with
  | some i => .next (s.regs.get i)
  | none => .fault .windowOutsideFile

/-- Put a value at a place of the register file. -/
def State.setPhys (s : State) (i : Fin 512) (v : Word) : State := { s with regs := s.regs.set i.val v i.isLt }

/-- `x[r] <- v`, the write of a visible register (R10, R33, R35). -/
def writeReg (s : State) (r : RegIx) (v : Word) : Result State :=
  match s.phys r with
  | some i => .next (s.setPhys i v)
  | none => .fault .windowOutsideFile

/-- %sp = %o6 (R31). -/
def regSp : RegIx := 14#5

/-- %o7, the current return address (R31). -/
def regO7 : RegIx := 15#5

/-- %r0 = %g0, the implicit data register of fills, partial stores, MSTEP and MUL (R31). -/
def regR0 : RegIx := 0#5

/-! ## STATUS, K, P, BT, pc -/

/-- Write the four flags. -/
def State.setFlags (s : State) (f : Flags) : State := { s with status := { s.status with flags := f } }

/-- Write CWP. -/
def State.setCwp (s : State) (w : BitVec 5) : State := { s with status := { s.status with cwp := w } }

/-- `K <- 0; P <- 0` (R51, R52). -/
def State.clearPfx (s : State) : State := { s with k := 0#11, p := false }

/-- Assignment to the program counter. -/
def State.setPc (s : State) (a : Addr) : State := { s with pc := a }

/-- The address of the instruction that executes after one that ends with `finish()`: the pending branch
target, else `pc + 2` modulo 2^33 (R43, R46). -/
def State.nextPc (s : State) : Addr := s.bt.getD (s.pc + 2#33)

/-- `finish()`, the common end of an instruction (R46). -/
def State.finish (s : State) : State :=
  { s with k := 0#11, p := false, bt := none, pc := s.nextPc }

/-- A register's 32 bits as the byte address of an instruction: shifted left by one (R303, R336, R103). -/
def codeAddr (v : Word) : Addr := v ++ 0#1

/-- The form in which an instruction address is kept in a register: `(a >> 1)[31:0]` (R313, R380). -/
def returnValue (a : Addr) : Word := a.extractLsb' 1 32

/-! ## Memory -/

/-- The byte at an address (R92). -/
def Memory.readByte (m : Memory) (a : Nat) : Byte :=
  match m with
  | [] => unlistedByte
  | (k, b) :: rest => if k = a then b else Memory.readByte rest a

/-- Put an entry into its place by address. -/
def Memory.insertCell (m : Memory) (a : Nat) (b : Byte) : Memory :=
  match m with
  | [] => [(a, b)]
  | (k, c) :: rest => if a < k then (a, b) :: (k, c) :: rest else (k, c) :: Memory.insertCell rest a b

/-- Write the byte at an address, keeping the canonical form. -/
def Memory.writeByte (m : Memory) (a : Nat) (b : Byte) : Memory :=
  let others : Memory := m.filter (fun x => decide (x.1 ≠ a))
  if b = unlistedByte then others else Memory.insertCell others a b

/-- Write bytes at consecutive addresses from `a` up. -/
def Memory.writeBytes (m : Memory) (a : Nat) (bs : List Byte) : Memory :=
  match bs with
  | [] => m
  | b :: rest => Memory.writeBytes (Memory.writeByte m a b) (a + 1) rest

/-- The little-endian word at an address, `Mem32` (R90, R92). -/
def Memory.readWord (m : Memory) (a : Nat) : Word :=
  Memory.readByte m (a + 3) ++ Memory.readByte m (a + 2) ++ Memory.readByte m (a + 1) ++ Memory.readByte m a

/-- The little-endian half-word at an address, `Mem16` (R91, R92, D38). -/
def Memory.readHalf (m : Memory) (a : Nat) : Half :=
  halfOfBytes (Memory.readByte m a) (Memory.readByte m (a + 1))

/-- The four bytes of a word, the one for the lowest address first (R90). -/
def bytesOfWord (v : Word) : List Byte :=
  [v.extractLsb' 0 8, v.extractLsb' 8 8, v.extractLsb' 16 8, v.extractLsb' 24 8]

/-- Whether the platform has something at a byte address (20_memory R104): inside the 33-bit space and in
none of the ranges the configuration lists as absent. -/
def populated (c : Config) (a : Nat) : Bool :=
  decide (a < 2 ^ 33) && !c.absent.any (fun r => decide (r.base ≤ a) && decide (a < r.base + r.size))

/-- Whether the platform has something at each of the `n` byte addresses from `a` up. -/
def populatedRange (c : Config) (a : Nat) (n : Nat) : Bool :=
  match n with
  | 0 => true
  | n + 1 => populatedRange c a n && populated c (a + n)

/-- Put an address into a rising list of addresses. -/
def insertAddr (a : Nat) (l : List Nat) : List Nat :=
  match l with
  | [] => [a]
  | b :: rest => if a < b then a :: b :: rest else if a = b then b :: rest else b :: insertAddr a rest

/-- Put the `n` addresses from `a` up into a rising list of addresses. -/
def insertRange (a n : Nat) (l : List Nat) : List Nat :=
  match n with
  | 0 => l
  | n + 1 => insertAddr (a + n) (insertRange a n l)

/-- `MemRead(addr, 4)` (R93), the read of a load and of a vector. A data address is 32 bits, zero-extended
to the 33-bit bus (R70, R111, D8, log 17). -/
def memReadWord (s : State) (a : Word) : Result Word :=
  if populatedRange s.cfg a.toNat 4 then .next (Memory.readWord s.mem a.toNat)
  else .fault .unpopulatedAddress

/-- The state after storing bytes at consecutive addresses, with the addresses noted for R109. -/
def State.store (s : State) (a : Nat) (bs : List Byte) : State :=
  { s with mem := Memory.writeBytes s.mem a bs, written := insertRange a bs.length s.written }

/-- `MemWrite(addr, n, v)` for the n bytes of a store, the one for the lowest address first (R94). DESIGN CHOICE:
every populated byte is memory that a store changes; there is no ROM, whose place, and what a store to it does,
R104 leaves to the platform (log 34). -/
def memWrite (s : State) (a : Word) (bs : List Byte) : Result State :=
  if populatedRange s.cfg a.toNat bs.length then .next (s.store a.toNat bs)
  else .fault .unpopulatedAddress

/-- Whether the CPU has stored to one of the two bytes of an instruction (20_memory R109, D10, log 19). -/
def State.storedOver (s : State) (a : Addr) : Bool :=
  s.written.contains a.toNat || s.written.contains (a.toNat + 1)

/-- `MemRead(addr, 2)`, the read of instruction fetch and of the look-ahead of a skip (R93, R101). A
half-word the CPU has stored into is refused (R109). -/
def fetchHalf (s : State) (a : Addr) : Result Half :=
  if populatedRange s.cfg a.toNat 2 then
    if s.storedOver a then .refused .storedInstruction
    else .next (Memory.readHalf s.mem a.toNat)
  else .fault .unpopulatedAddress

/-! ## Control registers -/

/-- The next free value, and the state that has used it (93 U1, log 7). -/
def drawFree (s : State) : Word × State := (Config.freeWord s.freeCount, { s with freeCount := s.freeCount + 1 })

/-- `CTL[K]` read by RDCTL, zero-extended (R338, R339, D21), and the state after the read. CLR_IE and
SET_IE deliver a free value (R64, R65). -/
def readControl (s : State) (index : BitVec 11) : Result (Word × State) :=
  if index.toNat = 0 then .next (s.status.toBits.zeroExtend 32, s)
  else if index.toNat = 1 then .next (s.istatus.toBits.zeroExtend 32, s)
  else if index.toNat = 2 then .next (s.wvalid.toBits.zeroExtend 32, s)
  else if index.toNat < 8 then .fault .reservedControlRegister
  else if index.toNat < 10 then .next (drawFree s)
  else .fault .undefinedControlRegister

/-- NOP, `MOV %g0,%g0` (R148, R157). -/
def nopWord : Half := 0x3000#16

/-- The check of R342 (D23, log 13): the word at the address of the next instruction to execute, in the
state before the WRCTL ends, is NOP. -/
def requireNop (s : State) : Result State :=
  andThen (fetchHalf s s.nextPc) fun w =>
    if w = nopWord then .next s else .fault .wrctlNotFollowedByNop

/-- `CTL[K] <- v` by WRCTL (R341): only the write to STATUS needs the NOP (R342). -/
def writeControl (s : State) (index : BitVec 11) (v : Half) : Result State :=
  if index.toNat = 0 then requireNop { s with status := StatusReg.ofBits v }
  else if index.toNat = 1 then .next { s with istatus := StatusReg.ofBits v }
  else if index.toNat = 2 then
    .next (if s.cfg.wvalidWritable then { s with wvalid := WvalidReg.ofBits v } else s)
  else if index.toNat < 8 then .fault .reservedControlRegister
  else if index.toNat = 8 then .next { s with status := { s.status with ie := false } }
  else if index.toNat = 9 then .next { s with status := { s.status with ie := true } }
  else .fault .undefinedControlRegister

/-! ## Taking an exception and returning from one -/

/-- The byte address of vector n, `VECBASE + 4*n` (20_memory R103), in 32-bit arithmetic (R111). -/
def vectorAddr (c : Config) (n : BitVec 6) : Word := c.vecBase + 4#32 * n.zeroExtend 32

/-- Steps 1 to 4 of the entry sequence (R380): STATUS saved, CWP, IE and IPRI written. -/
def State.enterStatus (s : State) (n : BitVec 6) (dec : Bool) : State :=
  { s with
    istatus := s.status
    status :=
      { s.status with
        cwp := if dec then s.status.cwp - 1#5 else s.status.cwp
        ie := false
        ipri := n } }

/-- `enter_exception(n, ret, dec)` (R380): the one entry sequence of external interrupts, TRAP and the two
window exceptions. -/
def enterException (s : State) (n : BitVec 6) (ret : Addr) (dec : Bool) : Result State :=
  andThen (writeReg (s.enterStatus n dec) regO7 (returnValue ret)) fun t =>
    andThen (memReadWord t (vectorAddr t.cfg n)) fun entry =>
      .next { t with k := 0#11, p := false, bt := none, pc := codeAddr entry }

/-- The return from an exception to `target` (R336, R390): STATUS from ISTATUS, all 16 bits. -/
def State.returnTo (s : State) (target : Addr) : State :=
  { s with status := s.istatus, k := 0#11, p := false, pc := target }

/-- `raise WindowUnderflow`, examined after the SAVE has ended (R372): dropped when masked (D15). -/
def raiseWindowUnderflow (s : State) : Result State :=
  if s.status.ie && decide (1 < s.status.ipri.toNat) then enterException s 1#6 s.pc false else .next s

/-- `raise WindowOverflow`, examined after the RESTORE has ended (R373): dropped when masked (D15, D16). -/
def raiseWindowOverflow (s : State) : Result State :=
  if s.status.ie && decide (2 < s.status.ipri.toNat) then enterException s 2#6 s.pc true else .next s

/-! ## Reset -/

/-- The reset event in a machine that stands at `s` (70_reset R420, R421): the CPU's state as `State.resetWith`
has it, and what is no CPU state untouched, that is every byte of memory, the interrupt samples to come and the
configuration. The two fields that are the model's own stay too: a byte the CPU has stored before the event is
still a stored one (log 19), and no free value is drawn twice (log 7). The event comes from outside the CPU, so
no step takes it (log 33). -/
def State.resetFrom (s : State) : State :=
  { State.resetWith s.cfg with mem := s.mem, written := s.written, irqs := s.irqs, freeCount := s.freeCount }

/-! ## External interrupts -/

/-- No request on the interrupt inputs. -/
def noRequest : IrqSample := { irq := false, number := 0#6 }

/-- The sample of the interrupt inputs at this instruction boundary (R364). -/
def State.sample (s : State) : IrqSample := s.irqs.headD noRequest

/-- The state with this boundary's sample taken. -/
def State.afterSample (s : State) : State := { s with irqs := s.irqs.tail }

/-- The acceptance condition (R366): no interrupt after a PFX or before a delay slot (D13). -/
def State.acceptsInterrupt (s : State) : Bool :=
  !s.p && s.bt.isNone && s.sample.irq && s.status.ie &&
    decide (s.sample.number.toNat < s.status.ipri.toNat)

/-- The step that accepts the interrupt: the return location is the instruction not yet executed (R366,
R382). -/
def takeInterrupt (s : State) : Result State :=
  enterException s.afterSample s.sample.number s.pc true

/-! ## Fetch -/

/-- The instruction at `pc`: fetched, and decoded as the configuration decodes (R130, R134, R139). A word
that is no instruction is a fault (R147, D11). -/
def fetchInstr (s : State) : Result Instr :=
  andThen (fetchHalf s s.pc) fun w =>
    match decode s.cfg.hasMul w with
    | .ok i => .next i
    | .error why => .fault (.unassigned why)

/-- `s` with the 16-bit word `w` where the next step fetches its instruction, and what that fetch needs:
those two bytes count as loaded from outside (R109), the platform has memory there (R104), and no interrupt
is requested at the boundary before it (R366). Log 6. -/
def State.placeWord (s : State) (w : Half) : State :=
  let here : Nat → Bool := fun a => a == s.pc.toNat || a == s.pc.toNat + 1
  { s with
    cfg :=
      { s.cfg with
        absent := s.cfg.absent.filter fun r =>
          !((decide (r.base ≤ s.pc.toNat) && decide (s.pc.toNat < r.base + r.size)) ||
            (decide (r.base ≤ s.pc.toNat + 1) && decide (s.pc.toNat + 1 < r.base + r.size))) }
    mem := Memory.writeBytes s.mem s.pc.toNat (bytesOfHalf w)
    written := s.written.filter fun a => !here a
    irqs :=
      match s.irqs with
      | [] => []
      | _ :: rest => noRequest :: rest }

/-- The word of an opcode-table row of `nbits` bits: every bit at and above `nbits` is 0. -/
def tableWord (nbits w : Nat) : Half := BitVec.ofNat 16 (w % 2 ^ nbits)

end Sys2Proof.Machine
end

