-- ==== Sys2Proof/Machine/Operands.lean ====
section
/-! DEFINITION. Every operand form the spec gives (spec 30_encoding R141 to R145, 20_memory R95 to R98,
43_load_store R270), and the shapes of instruction that several instructions share. -/

namespace Sys2Proof.Machine

/-! ## Immediates -/

/-- `K : IMM5`, 16 bits with K on top (R142). -/
def imm16 (k : BitVec 11) (imm5 : BitVec 5) : Half := k ++ imm5

/-- `zext_32(K : IMM5)` (R141). -/
def zextImm (k : BitVec 11) (imm5 : BitVec 5) : Word := (imm16 k imm5).zeroExtend 32

/-- `logic_operand()` of AND, ANDN, OR and XOR (R215): a constant when the previous instruction was PFX,
else the register that the same field names. -/
def logicOperand (s : State) (bi : BitVec 5) : Result Word :=
  if s.p then .next (zextImm s.k bi) else readReg s bi

/-! ## Effective addresses -/

/-- `align32(X) = X & 0xFFFFFFFC` (R9, R10). -/
def align32 (x : Word) : Word := x &&& 0xFFFFFFFC#32

/-- LD, ST and the register-indirect partial stores: the word address (R270, R271). -/
def eaIndirect (base : Word) (k : BitVec 11) : Word := align32 (base + 4#32 * k.signExtend 32)

/-- LDP and STP (R273, R274). -/
def eaPointer (base : Word) (k : BitVec 11) (imm5 : BitVec 5) : Word :=
  align32 (base + 4#32 * (imm16 k imm5).signExtend 32)

/-- LDS and STS (R275, R276). -/
def eaStackWord (sp : Word) (imm8 : BitVec 8) : Word := align32 (sp + 4#32 * imm8.zeroExtend 32)

/-- A byte address: the word address plus the lane n (R277, R278). -/
def eaByte (wordAddr : Word) (n : BitVec 2) : Word := wordAddr + n.zeroExtend 32

/-- A half-word address: the word address plus two times the lane n (R279, R280). -/
def eaHalf (wordAddr : Word) (n : BitVec 1) : Word := wordAddr + 2#32 * n.zeroExtend 32

/-- STS8s: the sum is aligned down and the lane comes from IMM10 alone (R281). -/
def eaStackByte (sp : Word) (imm10 : BitVec 10) : Word :=
  eaByte (align32 (sp + imm10.zeroExtend 32)) (imm10.extractLsb' 0 2)

/-- STS16s: the sum is aligned down and the lane comes from IMM9 alone (R282). -/
def eaStackHalf (sp : Word) (imm9 : BitVec 9) : Word :=
  eaHalf (align32 (sp + 2#32 * imm9.zeroExtend 32)) (imm9.extractLsb' 0 1)

/-- The base register of LDP and STP, `16 + P` (R131, R273). -/
def pointerReg (p : BitVec 2) : RegIx := 0b100#3 ++ p

/-! ## Lanes -/

/-- `byte(v, n)` (R10). -/
def byteLane (v : Word) (n : BitVec 2) : Byte := v.extractLsb' (8 * n.toNat) 8

/-- `half(v, n)` (R10). -/
def halfLane (v : Word) (n : BitVec 1) : Half := v.extractLsb' (16 * n.toNat) 16

/-! ## Shapes of instruction -/

/-- `x[a] <- v; finish()`. -/
def writeAndFinish (s : State) (a : RegIx) (v : Word) : Result State :=
  andThen (writeReg s a v) fun t => .next t.finish

/-- `x[dst] <- f(x[a]); finish()`, no flag. -/
def unaryOp (s : State) (dst a : RegIx) (f : Word → Word) : Result State :=
  andThen (readReg s a) fun x => writeAndFinish s dst (f x)

/-- `x[dst] <- f(x[a], x[b]); finish()`, no flag. -/
def binaryOp (s : State) (dst a b : RegIx) (f : Word → Word → Word) : Result State :=
  andThen (readReg s a) fun x =>
    andThen (readReg s b) fun y => writeAndFinish s dst (f x y)

/-- Write a result and the flags that go with it; `finish()`. -/
def writeFlagsAndFinish (s : State) (a : RegIx) (r : Word) (fl : Flags) : Result State :=
  writeAndFinish (s.setFlags fl) a r

/-- Register and register, result and all four flags (R182, R184). -/
def arithReg (s : State) (a b : RegIx) (f : Word → Word → Word × Flags) : Result State :=
  andThen (readReg s a) fun x =>
    andThen (readReg s b) fun y => writeFlagsAndFinish s a (f x y).1 (f x y).2

/-- Register and immediate, result and all four flags (R183, R185). -/
def arithImm (s : State) (a : RegIx) (imm5 : BitVec 5) (f : Word → Word → Word × Flags) : Result State :=
  andThen (readReg s a) fun x =>
    writeFlagsAndFinish s a (f x (zextImm s.k imm5)).1 (f x (zextImm s.k imm5)).2

/-- The four two-operand logic instructions: result, N and Z (R210 to R213, R215). -/
def logicOp (s : State) (a : RegIx) (bi : BitVec 5) (f : Word → Word → Word) : Result State :=
  andThen (readReg s a) fun x =>
    andThen (logicOperand s bi) fun y =>
      writeFlagsAndFinish s a (f x y) (logicFlags (f x y) s.status.flags)

/-- A rotate through carry: result and C (R257, R258). -/
def rotateOp (s : State) (a : RegIx) (f : Word → Bool → Word × Bool) : Result State :=
  andThen (readReg s a) fun x =>
    writeFlagsAndFinish s a (f x s.status.flags.c).1
      { s.status.flags with c := (f x s.status.flags.c).2 }

/-- `x[a] <- MemRead(ea, 4); finish()`. -/
def loadOp (s : State) (a : RegIx) (ea : Word) : Result State :=
  andThen (memReadWord s ea) fun v => writeAndFinish s a v

/-- `MemWrite(ea, n, v); finish()`. -/
def storeOp (s : State) (ea : Word) (bs : List Byte) : Result State :=
  andThen (memWrite s ea bs) fun t => .next t.finish

/-- The twelve instructions that may not stand in a delay slot (R322, D25, log 12). -/
def outsideDelaySlot (s : State) (body : Result State) : Result State :=
  if s.bt.isSome then .fault .forbiddenInDelaySlot else body

/-- The common end of BR, BSR, JMP and CALL: the target is pending and `pc` goes on to the delay slot (R301,
R320). -/
def State.branchTo (s : State) (target : Addr) : State :=
  { s with bt := some target, k := 0#11, p := false, pc := s.pc + 2#33 }

/-- The target of BR and BSR, `pc + 2 + 2*sext(IMM11)` modulo 2^33 (R301). -/
def branchTarget (pc : Addr) (imm11 : BitVec 11) : Addr := pc + 2#33 + 2#33 * imm11.signExtend 33

/-- Whether a half-word is a PFX (R310). -/
def isPfxWord (w : Half) : Bool := w.extractLsb' 11 5 == 0b10011#5

/-- The common operation of the five skips (R310): over the next instruction, or over a PFX and the one
after it. -/
def skipOp (s : State) (cond : Bool) : Result State :=
  if cond then
    andThen (fetchHalf s (s.pc + 2#33)) fun w =>
      .next (s.clearPfx.setPc (if isPfxWord w then s.pc + 6#33 else s.pc + 4#33))
  else .next (s.clearPfx.setPc (s.pc + 2#33))

end Sys2Proof.Machine
end

