-- ==== Sys2Proof/Machine/Arithmetic.lean ====
section
/-! DEFINITION. The arithmetic instructions (spec 40_arithmetic R180 to R193). -/

namespace Sys2Proof.Machine

/-- ADD (R182). -/
def execAdd (a b : RegIx) (s : State) : Result State := arithReg s a b addFlags

/-- ADDI (R183). -/
def execAddi (a : RegIx) (imm5 : BitVec 5) (s : State) : Result State := arithImm s a imm5 addFlags

/-- SUB (R184). -/
def execSub (a b : RegIx) (s : State) : Result State := arithReg s a b subFlags

/-- SUBI (R185). -/
def execSubi (a : RegIx) (imm5 : BitVec 5) (s : State) : Result State := arithImm s a imm5 subFlags

/-- CMP: the flags of SUB, no register written (R186). -/
def execCmp (a b : RegIx) (s : State) : Result State :=
  andThen (readReg s a) fun x =>
    andThen (readReg s b) fun y => .next (s.setFlags (subFlags x y).2).finish

/-- CMPI: the flags of SUBI, no register written (R187). -/
def execCmpi (a : RegIx) (imm5 : BitVec 5) (s : State) : Result State :=
  andThen (readReg s a) fun x => .next (s.setFlags (subFlags x (zextImm s.k imm5)).2).finish

/-- ABS: -2^31 stays as it is (R188). -/
def execAbs (a : RegIx) (s : State) : Result State :=
  unaryOp s a a fun x => if x.getLsbD 31 then 0#32 - x else x

/-- NEG (R189). -/
def execNeg (a : RegIx) (s : State) : Result State := unaryOp s a a fun x => 0#32 - x

/-- MUL, on a CPU that has it: the unsigned product of the low halves into %r0 (R190, D30, log 9). -/
def execMul (a : RegIx) (s : State) : Result State :=
  if s.cfg.hasMul then
    binaryOp s regR0 regR0 a fun x y => (x &&& 0x0000FFFF#32) * (y &&& 0x0000FFFF#32)
  else .fault (.unassigned .mulAbsent)

/-- MSTEP: one step of an unsigned multiply into %r0 (R191). -/
def execMstep (a : RegIx) (s : State) : Result State :=
  binaryOp s regR0 regR0 a fun x y => if x.getLsbD 31 then (x <<< 1) + y else x <<< 1

end Sys2Proof.Machine
end

