-- ==== Sys2Proof/Machine/Control.lean ====
section
/-! DEFINITION. PFX, the branches and jumps, and the skips (spec 44_control_flow R300 to R324). None of them
may stand in a delay slot (R322). -/

namespace Sys2Proof.Machine

/-- PFX: K and P set, no `finish()` (R300); a second PFX in a row is a fault (D26, log 11). -/
def execPfx (imm11 : BitVec 11) (s : State) : Result State :=
  outsideDelaySlot s <|
    if s.p then .fault .consecutivePfx
    else .next { s with k := imm11, p := true, pc := s.pc + 2#33 }

/-- BR (R301). -/
def execBr (imm11 : BitVec 11) (s : State) : Result State :=
  outsideDelaySlot s <| .next (s.branchTo (branchTarget s.pc imm11))

/-- BSR: %o7 gets the address after the delay slot, halved (R302, R313). -/
def execBsr (imm11 : BitVec 11) (s : State) : Result State :=
  outsideDelaySlot s <|
    andThen (writeReg s regO7 (returnValue (s.pc + 4#33))) fun t =>
      .next (t.branchTo (branchTarget s.pc imm11))

/-- JMP (R303). -/
def execJmp (a : RegIx) (s : State) : Result State :=
  outsideDelaySlot s <| andThen (readReg s a) fun x => .next (s.branchTo (codeAddr x))

/-- CALL: x[A] is read before %o7 is written (R304). -/
def execCall (a : RegIx) (s : State) : Result State :=
  outsideDelaySlot s <|
    andThen (readReg s a) fun x =>
      andThen (writeReg s regO7 (returnValue (s.pc + 4#33))) fun t => .next (t.branchTo (codeAddr x))

/-- SKP0 (R305). -/
def execSkp0 (a : RegIx) (imm5 : BitVec 5) (s : State) : Result State :=
  outsideDelaySlot s <| andThen (readReg s a) fun x => skipOp s (!x.getLsbD imm5.toNat)

/-- SKP1 (R306). -/
def execSkp1 (a : RegIx) (imm5 : BitVec 5) (s : State) : Result State :=
  outsideDelaySlot s <| andThen (readReg s a) fun x => skipOp s (x.getLsbD imm5.toNat)

/-- SKPRz (R307). -/
def execSkprz (a : RegIx) (s : State) : Result State :=
  outsideDelaySlot s <| andThen (readReg s a) fun x => skipOp s (x == 0#32)

/-- SKPRnz (R308). -/
def execSkprnz (a : RegIx) (s : State) : Result State :=
  outsideDelaySlot s <| andThen (readReg s a) fun x => skipOp s (x != 0#32)

/-- SKPS (R309); conditions 14 and 15 are no instruction (D31, log 10). -/
def execSkps (imm4 : BitVec 4) (s : State) : Result State :=
  outsideDelaySlot s <|
    match skpsCondition imm4 s.status.flags with
    | some cond => skipOp s cond
    | none => .fault (.unassigned .skpsCondition)

end Sys2Proof.Machine
end

