-- ==== Sys2Proof/Machine/LoadStore.lean ====
section
/-! DEFINITION. The load and store instructions (spec 43_load_store R270 to R286). A partial store writes
the lane of %r0 that has the number of the memory lane it addresses (20_memory R96). -/

namespace Sys2Proof.Machine

/-- LD (R271). -/
def execLd (a b : RegIx) (s : State) : Result State :=
  andThen (readReg s b) fun base => loadOp s a (eaIndirect base s.k)

/-- LDP (R273). -/
def execLdp (a : RegIx) (p : BitVec 2) (imm5 : BitVec 5) (s : State) : Result State :=
  andThen (readReg s (pointerReg p)) fun base => loadOp s a (eaPointer base s.k imm5)

/-- LDS (R275). -/
def execLds (a : RegIx) (imm8 : BitVec 8) (s : State) : Result State :=
  andThen (readReg s regSp) fun sp => loadOp s a (eaStackWord sp imm8)

/-- ST (R272). -/
def execSt (a b : RegIx) (s : State) : Result State :=
  andThen (readReg s b) fun base =>
    andThen (readReg s a) fun v => storeOp s (eaIndirect base s.k) (bytesOfWord v)

/-- STP (R274). -/
def execStp (a : RegIx) (p : BitVec 2) (imm5 : BitVec 5) (s : State) : Result State :=
  andThen (readReg s (pointerReg p)) fun base =>
    andThen (readReg s a) fun v => storeOp s (eaPointer base s.k imm5) (bytesOfWord v)

/-- STS (R276). -/
def execSts (a : RegIx) (imm8 : BitVec 8) (s : State) : Result State :=
  andThen (readReg s regSp) fun sp =>
    andThen (readReg s a) fun v => storeOp s (eaStackWord sp imm8) (bytesOfWord v)

/-- ST8d: lane x[A][1:0] (R277). -/
def execSt8d (a : RegIx) (s : State) : Result State :=
  andThen (readReg s a) fun x =>
    andThen (readReg s regR0) fun v =>
      storeOp s (eaByte (eaIndirect x s.k) (x.extractLsb' 0 2)) [byteLane v (x.extractLsb' 0 2)]

/-- ST8s: lane IMM2 (R278). -/
def execSt8s (a : RegIx) (imm2 : BitVec 2) (s : State) : Result State :=
  andThen (readReg s a) fun x =>
    andThen (readReg s regR0) fun v => storeOp s (eaByte (eaIndirect x s.k) imm2) [byteLane v imm2]

/-- ST16d: lane x[A][1] (R279). -/
def execSt16d (a : RegIx) (s : State) : Result State :=
  andThen (readReg s a) fun x =>
    andThen (readReg s regR0) fun v =>
      storeOp s (eaHalf (eaIndirect x s.k) (x.extractLsb' 1 1)) (bytesOfHalf (halfLane v (x.extractLsb' 1 1)))

/-- ST16s: lane IMM1 (R280). -/
def execSt16s (a : RegIx) (imm1 : BitVec 1) (s : State) : Result State :=
  andThen (readReg s a) fun x =>
    andThen (readReg s regR0) fun v =>
      storeOp s (eaHalf (eaIndirect x s.k) imm1) (bytesOfHalf (halfLane v imm1))

/-- STS8s: lane IMM10[1:0] (R281). -/
def execSts8s (imm10 : BitVec 10) (s : State) : Result State :=
  andThen (readReg s regSp) fun sp =>
    andThen (readReg s regR0) fun v =>
      storeOp s (eaStackByte sp imm10) [byteLane v (imm10.extractLsb' 0 2)]

/-- STS16s: lane IMM9[0] (R282). -/
def execSts16s (imm9 : BitVec 9) (s : State) : Result State :=
  andThen (readReg s regSp) fun sp =>
    andThen (readReg s regR0) fun v =>
      storeOp s (eaStackHalf sp imm9) (bytesOfHalf (halfLane v (imm9.extractLsb' 0 1)))

end Sys2Proof.Machine
end

