-- ==== Sys2Proof/Machine/Logic.lean ====
section
/-! DEFINITION. The logic, move, extend, extract and fill instructions (spec 41_logic_move_extract R210 to
R230). -/

namespace Sys2Proof.Machine

/-- AND (R210). -/
def execAnd (a : RegIx) (bi : BitVec 5) (s : State) : Result State := logicOp s a bi fun x y => x &&& y

/-- ANDN: the inversion is of the full 32-bit operand (R211). -/
def execAndn (a : RegIx) (bi : BitVec 5) (s : State) : Result State := logicOp s a bi fun x y => x &&& ~~~y

/-- OR (R212). -/
def execOr (a : RegIx) (bi : BitVec 5) (s : State) : Result State := logicOp s a bi fun x y => x ||| y

/-- XOR (R213). -/
def execXor (a : RegIx) (bi : BitVec 5) (s : State) : Result State := logicOp s a bi fun x y => x ^^^ y

/-- NOT: no flag (R214). -/
def execNot (a : RegIx) (s : State) : Result State := unaryOp s a a fun x => ~~~x

/-- MOV (R216). -/
def execMov (a b : RegIx) (s : State) : Result State := unaryOp s a b fun y => y

/-- MOVI (R217). -/
def execMovi (a : RegIx) (imm5 : BitVec 5) (s : State) : Result State := writeAndFinish s a (zextImm s.k imm5)

/-- MOVHI: bits 31:16 replaced, bits 15:0 kept (R218). -/
def execMovhi (a : RegIx) (imm5 : BitVec 5) (s : State) : Result State :=
  unaryOp s a a fun x => imm16 s.k imm5 ++ x.extractLsb' 0 16

/-- BGEN: 2^IMM5 (R219). -/
def execBgen (a : RegIx) (imm5 : BitVec 5) (s : State) : Result State :=
  writeAndFinish s a (1#32 <<< imm5.toNat)

/-- SEXT8 (R220). -/
def execSext8 (a : RegIx) (s : State) : Result State :=
  unaryOp s a a fun x => (x.extractLsb' 0 8).signExtend 32

/-- SEXT16 (R221). -/
def execSext16 (a : RegIx) (s : State) : Result State :=
  unaryOp s a a fun x => (x.extractLsb' 0 16).signExtend 32

/-- SWAP: the two half-words exchanged (R222). -/
def execSwap (a : RegIx) (s : State) : Result State :=
  unaryOp s a a fun x => x.extractLsb' 0 16 ++ x.extractLsb' 16 16

/-- EXT8d: the byte that bits 1:0 of x[B] select, zero-extended (R224). -/
def execExt8d (a b : RegIx) (s : State) : Result State :=
  binaryOp s a a b fun x y => (byteLane x (y.extractLsb' 0 2)).zeroExtend 32

/-- EXT8s: the byte that IMM2 selects, zero-extended (R225). -/
def execExt8s (a : RegIx) (imm2 : BitVec 2) (s : State) : Result State :=
  unaryOp s a a fun x => (byteLane x imm2).zeroExtend 32

/-- EXT16d: the half-word that bit 1 of x[B] selects, zero-extended (R226). -/
def execExt16d (a b : RegIx) (s : State) : Result State :=
  binaryOp s a a b fun x y => (halfLane x (y.extractLsb' 1 1)).zeroExtend 32

/-- EXT16s: the half-word that IMM1 selects, zero-extended (R227). -/
def execExt16s (a : RegIx) (imm1 : BitVec 1) (s : State) : Result State :=
  unaryOp s a a fun x => (halfLane x imm1).zeroExtend 32

/-- FILL8: four copies of the low byte into %r0 (R228). -/
def execFill8 (a : RegIx) (s : State) : Result State :=
  unaryOp s regR0 a fun x =>
    x.extractLsb' 0 8 ++ x.extractLsb' 0 8 ++ x.extractLsb' 0 8 ++ x.extractLsb' 0 8

/-- FILL16: two copies of the low half-word into %r0 (R229). -/
def execFill16 (a : RegIx) (s : State) : Result State :=
  unaryOp s regR0 a fun x => x.extractLsb' 0 16 ++ x.extractLsb' 0 16

end Sys2Proof.Machine
end

