-- ==== Sys2Proof/Machine/Shift.lean ====
section
/-! DEFINITION. The shift and rotate instructions (spec 42_shift_rotate R250 to R260). The register forms
take the count from x[B][4:0] (R250). No shift writes a flag. -/

namespace Sys2Proof.Machine

/-- The count of a register shift, `x[B][4:0]` (R250). -/
def shiftCount (y : Word) : Nat := (y.extractLsb' 0 5).toNat

/-- LSL (R251). -/
def execLsl (a b : RegIx) (s : State) : Result State := binaryOp s a a b fun x y => x <<< shiftCount y

/-- LSLI (R252). -/
def execLsli (a : RegIx) (imm5 : BitVec 5) (s : State) : Result State :=
  unaryOp s a a fun x => x <<< imm5.toNat

/-- LSR (R253). -/
def execLsr (a b : RegIx) (s : State) : Result State := binaryOp s a a b fun x y => x >>> shiftCount y

/-- LSRI (R254). -/
def execLsri (a : RegIx) (imm5 : BitVec 5) (s : State) : Result State :=
  unaryOp s a a fun x => x >>> imm5.toNat

/-- ASR (R255). -/
def execAsr (a b : RegIx) (s : State) : Result State := binaryOp s a a b fun x y => x.sshiftRight (shiftCount y)

/-- ASRI (R256). -/
def execAsri (a : RegIx) (imm5 : BitVec 5) (s : State) : Result State :=
  unaryOp s a a fun x => x.sshiftRight imm5.toNat

/-- RLC (R257). -/
def execRlc (a : RegIx) (s : State) : Result State := rotateOp s a rotateLeftCarry

/-- RRC (R258). -/
def execRrc (a : RegIx) (s : State) : Result State := rotateOp s a rotateRightCarry

end Sys2Proof.Machine
end

