-- ==== Sys2Proof/Machine/Window.lean ====
section
/-! DEFINITION. The register-window, trap and control-register instructions (spec 45_window_trap_control
R330 to R343). -/

namespace Sys2Proof.Machine

/-- SAVE: completes, then underflow when CWP was LO_LIMIT (R330, R372). -/
def execSave (imm8 : BitVec 8) (s : State) : Result State :=
  andThen (readReg s regSp) fun fp =>
    andThen (writeReg (s.setCwp (s.status.cwp - 1#5)) regSp (fp - 4#32 * imm8.zeroExtend 32)) fun t =>
      if s.status.cwp = s.wvalid.loLimit then raiseWindowUnderflow t.finish else .next t.finish

/-- RESTORE: completes, then overflow when CWP was HI_LIMIT (R332, R373). -/
def execRestore (s : State) : Result State :=
  let t := (s.setCwp (s.status.cwp + 1#5)).finish
  if s.status.cwp = s.wvalid.hiLimit then raiseWindowOverflow t else .next t

/-- TRAP: unconditional, returns to the next instruction (R334). -/
def execTrap (imm6 : BitVec 6) (s : State) : Result State :=
  outsideDelaySlot s <| enterException s imm6 (s.pc + 2#33) true

/-- TRET: x[A] is read through the handler's window (R336). -/
def execTret (a : RegIx) (s : State) : Result State :=
  outsideDelaySlot s <| andThen (readReg s a) fun x => .next (s.returnTo (codeAddr x))

/-- RDCTL: the control register that K selects (R338, R339). -/
def execRdctl (a : RegIx) (s : State) : Result State :=
  andThen (readControl s s.k) fun r => writeAndFinish r.2 a r.1

/-- WRCTL: the low 16 bits of x[A] to the control register that K selects (R340, R341, D22). -/
def execWrctl (a : RegIx) (s : State) : Result State :=
  andThen (readReg s a) fun x =>
    andThen (writeControl s s.k (x.extractLsb' 0 16)) fun t => .next t.finish

end Sys2Proof.Machine
end

