-- ==== Sys2Proof/Machine/Step.lean ====
section
/-! DEFINITION. One step of the machine (spec 60_exceptions R366, R375): take this boundary's sample of the
interrupt inputs, then either accept the interrupt or fetch, decode and execute one instruction. -/

namespace Sys2Proof.Machine

/-- One step. -/
def step (s : State) : Host.Outcome State Fault Refusal :=
  if s.acceptsInterrupt then takeInterrupt s
  else andThen (fetchInstr s.afterSample) fun i => exec i s.afterSample

/-- `s` with the opcode-table row's word stored where the next step fetches its instruction (log 6). -/
def State.withFetchWord (s : State) (nbits w : Nat) : State := s.placeWord (tableWord nbits w)

end Sys2Proof.Machine
end

