-- ==== Sys2Proof/Safety.lean ====
section
/-! DEFINITION. What counts as a good state and a good run, and the terms the statements are written in. -/

namespace Sys2Proof.Machine

/-! ## Good states -/

/-- The invariant of the machine: what the spec says is true of every state a run reaches.
Memory and the noted store addresses keep their canonical forms (20_memory R92, R109); `pc` and a pending
target are even (10_state R40, R42, R44); K is 0 unless the previous instruction was a PFX (R50); and a PFX is
not the instruction before a delay slot (44_control_flow R322). -/
structure State.Inv (s : State) : Prop where
  memWf : Memory.wf s.mem = true
  writtenRising : risingAddrs s.written = true
  pcEven : s.pc.getLsbD 0 = false
  targetEven : ∀ t, s.bt = some t → t.getLsbD 0 = false
  kOnlyAfterPfx : s.p = false → s.k = 0#11
  pfxOutsideDelaySlot : s.p = true → s.bt = none

/-! ## What an instruction leaves -/

/-- `finish()` of R46, as a relation between the state before and the state after: K and P are cleared, and
`pc` is the pending branch target, which is gone, or else two more than it was. It says nothing of `pc`
where `pc + 2` passes the top of the address space (R43 is a decision, D7). -/
def State.finished (s t : State) : Prop :=
  t.k = 0#11 ∧ t.p = false ∧ t.bt = none ∧ (∀ b, s.bt = some b → t.pc = b) ∧
    (s.bt = none → s.pc.toNat + 2 < 2 ^ 33 → t.pc.toNat = s.pc.toNat + 2)

/-- `t` is `u` in every field but those of the program flow: `pc`, the pending target, K and P. -/
def State.sameButFlow (t u : State) : Prop := t = { u with pc := t.pc, bt := t.bt, k := t.k, p := t.p }

/-- An instruction run in `s` has left `t` by way of `finish()`, and `t` is `u` in every other field. With `u`
written as an update of `s` this is both the result and the frame: what the update does not name is as in `s`. -/
def State.endsAs (s u t : State) : Prop := s.finished t ∧ t.sameButFlow u

/-- An instruction run in `s` has left `t` by way of `finish()`, with the bytes `bs` stored from address `ea` up:
they read back, every byte outside them reads as before, they are noted as stored (20_memory R109), and every
other field of the state is as in `s`. -/
def State.storedAs (s : State) (ea : Nat) (bs : List Byte) (t : State) : Prop :=
  s.finished t ∧
    t.sameButFlow { s with mem := t.mem, written := t.written } ∧
    (∀ n, (h : n < bs.length) → Memory.readByte t.mem (ea + n) = bs[n]) ∧
    (∀ a, a < ea ∨ ea + bs.length ≤ a → Memory.readByte t.mem a = Memory.readByte s.mem a) ∧
    (∀ a, a ∈ t.written ↔ a ∈ s.written ∨ (ea ≤ a ∧ a < ea + bs.length))

/-- The instructions of a list, one after another, each in the state the one before it left: the meaning of a
code fragment without its fetches. -/
def execAll (is : List Instr) (s : State) : Host.Outcome State Fault Refusal :=
  match is with
  | [] => .next s
  | i :: rest => andThen (exec i s) (execAll rest)

/-! ## Flags in the words of the spec -/

/-- The flags of a sum as Table 7 of the source words them (10_state R60): N is the sign of the result, V says
that its bit 31 is not the sign of the result computed with unlimited precision, Z that it is 0, C the carry out. -/
def sumFlags (x y : Word) : Flags where
  n := (x + y).msb
  v := (x + y).msb != decide (x.toInt + y.toInt < 0)
  z := decide (x + y = 0#32)
  c := decide (2 ^ 32 ≤ x.toNat + y.toNat)

/-- The flags of a difference as Table 7 of the source words them (10_state R60): C is the borrow. -/
def differenceFlags (x y : Word) : Flags where
  n := (x - y).msb
  v := (x - y).msb != decide (x.toInt - y.toInt < 0)
  z := decide (x - y = 0#32)
  c := decide (x.toNat < y.toNat)

/-- N and Z from a result, V and C kept (41_logic_move_extract R215). -/
def signAndZero (r : Word) (f : Flags) : Flags := { n := r.msb, v := f.v, z := decide (r = 0#32), c := f.c }

/-- The constant `K : IMM5`, K in bits 15:5 (30_encoding R142). -/
def prefixedConstant (k : BitVec 11) (imm5 : BitVec 5) : Nat := 32 * k.toNat + imm5.toNat

/-! ## Kinds of instruction -/

/-- The nine instructions that write memory (20_memory R98). -/
def isStore : Instr → Bool
  | .st _ _ | .stp _ _ _ | .sts _ _ | .st16d _ | .st16s _ _ | .sts16s _ | .st8d _ | .st8s _ _ | .sts8s _ => true
  | _ => false

/-- The twelve instructions that may not stand in a delay slot (44_control_flow R322). -/
def barredFromDelaySlot : Instr → Bool
  | .br _ | .bsr _ | .jmp _ | .call _ | .skp0 _ _ | .skp1 _ _ | .skprz _ | .skprnz _ | .skps _ | .trap _ | .tret _
  | .pfx _ => true
  | _ => false

/-- The instructions of the row "not read" of 30_encoding R145. -/
def ignoresPrefix : Instr → Bool
  | .add _ _ | .sub _ _ | .cmp _ _ | .lsl _ _ | .lsli _ _ | .lsr _ _ | .lsri _ _ | .asr _ _ | .asri _ _ | .mov _ _
  | .bgen _ _ | .not _ | .neg _ | .abs _ | .sext8 _ | .sext16 _ | .swap _ | .rlc _ | .rrc _ | .ext8d _ _ | .ext8s _ _
  | .ext16d _ _ | .ext16s _ _ | .fill8 _ | .fill16 _ | .mstep _ | .mul _ | .lds _ _ | .sts _ _ | .sts8s _ | .sts16s _
  | .br _ | .bsr _ | .jmp _ | .call _ | .skp0 _ _ | .skp1 _ _ | .skprz _ | .skprnz _ | .skps _ | .save _ | .restore
  | .trap _ | .tret _ => true
  | _ => false

/-- The instructions whose row is in the table of flag writers (10_state R61). -/
def writesFlags : Instr → Bool
  | .add _ _ | .addi _ _ | .sub _ _ | .subi _ _ | .cmp _ _ | .cmpi _ _ | .and _ _ | .andn _ _ | .or _ _ | .xor _ _
  | .rlc _ | .rrc _ | .wrctl _ | .tret _ => true
  | _ => false

/-- The visible registers that an instruction reads or writes through the window it starts in, the implicit ones
of 10_state R31 among them. `p` is the prefix flag, which selects the form of the four logic instructions. -/
def accesses (p : Bool) : Instr → List RegIx
  | .add a b | .sub a b | .cmp a b | .lsl a b | .lsr a b | .asr a b | .mov a b | .ext8d a b | .ext16d a b
  | .ld a b | .st a b => [a, b]
  | .and a bi | .andn a bi | .or a bi | .xor a bi => if p then [a] else [a, bi]
  | .addi a _ | .subi a _ | .cmpi a _ | .lsli a _ | .lsri a _ | .asri a _ | .movi a _ | .movhi a _ | .bgen a _
  | .skp0 a _ | .skp1 a _ | .ext8s a _ | .ext16s a _ | .not a | .neg a | .abs a | .sext8 a | .sext16 a | .rlc a
  | .rrc a | .swap a | .tret a | .skprz a | .skprnz a | .wrctl a | .rdctl a | .jmp a => [a]
  | .st8s a _ | .st16s a _ | .st8d a | .st16d a | .fill8 a | .fill16 a | .mstep a | .mul a => [a, 0#5]
  | .ldp a p _ | .stp a p _ => [a, 0b100#3 ++ p]
  | .lds a _ | .sts a _ => [a, 14#5]
  | .sts8s _ | .sts16s _ => [14#5, 0#5]
  | .call a => [a, 15#5]
  | .bsr _ => [15#5]
  | .save _ => [14#5]
  | .restore | .trap _ | .skps _ | .br _ | .pfx _ => []

end Sys2Proof.Machine
end

