-- ==== Sys2Proof/Certificates/Slice0/Obligations.lean ====
section
/-! DEFINITION. The statements for the provers. Places: `s.phys r = some i` says that visible register `r` is at
place `i` of the register file (10_state R33; `RegisterPlaces` states where that is), so `s.regs.get i` is `x[r]`
and `s.regs.set i v` is `x[r] <- v`. -/

section
open Sys2Proof Sys2Proof.Machine

/-! ## Encoding and fetch -/

/-- Every instruction's word decodes to that instruction, with every operand at every value its field admits
(30_encoding R132, R134 to R138, R150). The word of MUL is from outside the manual (D30, log 9). -/
def Obligations.DecodeOfEncodeIsTheInstruction : Prop :=
  ∀ (hasMul : Bool) (i : Instr), i.wellFormed hasMul = true → decode hasMul (encode i) = .ok i

/-- A word that decodes is the word of the instruction it decodes to, and that instruction exists (30_encoding R134,
R140, R150). The must-be-zero bits, SKPS 14 and 15 and MUL are decisions D11, D12, D30 and D31 (log 9, log 10). -/
def Obligations.EncodeOfDecodeIsTheWord : Prop :=
  ∀ (hasMul : Bool) (w : Half) (i : Instr), decode hasMul w = .ok i → encode i = w ∧ i.wellFormed hasMul = true

/-- The complete list of unassigned words (30_encoding R147). The must-be-zero bits, SKPS 14 and 15 and MUL are
decisions of the spec (D11, D12, D30, D31; log 9, log 10). -/
def Obligations.DecoderRejectsExactlyTheUnassignedWords : Prop :=
  ∀ (hasMul : Bool) (w : Half),
    (∃ why, decode hasMul w = .error why) ↔
      w.extractLsb' 10 6 = 0b011100#6 ∨
      (w.extractLsb' 10 6 = 0b011101#6 ∧ w.extractLsb' 8 1 = 1#1) ∨
      (w.extractLsb' 10 6 = 0b011101#6 ∧ w.extractLsb' 7 2 = 0b01#2 ∧ w.extractLsb' 5 1 = 1#1) ∨
      (w.extractLsb' 10 6 = 0b011001#6 ∧ w.extractLsb' 0 1 = 1#1) ∨
      (w.extractLsb' 10 6 = 0b011110#6 ∧ (w.extractLsb' 9 1 = 1#1 ∨
        (w.extractLsb' 8 1 = 1#1 ∧ w.extractLsb' 6 2 ≠ 0#2))) ∨
      (w.extractLsb' 10 6 = 0b011111#6 ∧
        (w.extractLsb' 5 5 ∈ [0b00111#5, 0b01001#5, 0b01010#5, 0b01011#5, 0b01100#5, 0b01111#5, 0b11011#5,
            0b11100#5, 0b11101#5] ∨
          (w.extractLsb' 5 5 = 0b10101#5 ∧ hasMul = false) ∨
          (w.extractLsb' 5 5 = 0b01101#5 ∧ w.extractLsb' 0 5 ≠ 0#5) ∨
          (w.extractLsb' 5 5 = 0b10111#5 ∧
            (w.extractLsb' 4 1 = 1#1 ∨ w.extractLsb' 0 4 = 14#4 ∨ w.extractLsb' 0 4 = 15#4)))) ∨
      w.extractLsb' 11 5 = 0b10010#5

/-- Words of the spec's own examples, one for each family, decode to the instruction each stands for. -/
def Obligations.ExampleWordsDecode : Prop :=
  decode false 0x0013#16 = .ok (.add 19#5 0#5) ∧
  decode false 0x99FF#16 = .ok (.pfx 0x1FF#11) ∧
  decode false 0x3BE0#16 = .ok (.and 0#5 31#5) ∧
  decode false 0x1CD9#16 = .ok (.lsli 25#5 6#5) ∧
  decode false 0xB86B#16 = .ok (.ldp 11#5 2#2 3#5) ∧
  decode false 0x640E#16 = .ok (.sts16s 7#9) ∧
  decode false 0x76C4#16 = .ok (.st16s 4#5 1#1) ∧
  decode false 0x87F7#16 = .ok (.br 0x7F7#11) ∧
  decode false 0x7EE3#16 = .ok (.skps 3#4) ∧
  decode false 0x7817#16 = .ok (.save 23#8) ∧
  decode false 0x7DCF#16 = .ok (.tret 15#5) ∧
  decode false 0x7F27#16 = .ok (.rdctl 7#5)

/-- The bytes of an instruction, the low one at the lower address, decode to it, and a fetch from memory that holds
them at `pc` answers it (30_encoding R130, 20_memory R91; the byte order is decision D38, log 22; the hypothesis that
the CPU has stored nothing there is D10, log 19). The word of MUL is from outside the manual (D30, log 9), and where
the platform has placed nothing is the model's choice (log 26). -/
def Obligations.InstructionBytesAreFetchedLittleEndian : Prop :=
  (∀ (hasMul : Bool) (i : Instr) (rest : List Byte), i.wellFormed hasMul = true →
    decodeBytes hasMul ((encode i).extractLsb' 0 8 :: (encode i).extractLsb' 8 8 :: rest) = .ok (i, rest)) ∧
  (∀ (s : State) (i : Instr), i.wellFormed s.cfg.hasMul = true →
    Memory.readByte s.mem s.pc.toNat = (encode i).extractLsb' 0 8 →
    Memory.readByte s.mem (s.pc.toNat + 1) = (encode i).extractLsb' 8 8 →
    populatedRange s.cfg s.pc.toNat 2 = true → s.storedOver s.pc = false →
    fetchInstr s = .next i)

/-- Where no interrupt is accepted, a step is the meaning of the instruction that the half-word at `pc` decodes to, in
the state with this boundary's sample of the inputs taken (60_exceptions R366, R375; log 25; the hypothesis that the
CPU has stored nothing there is D10, log 19). The byte order of the half-word is decision D38 (log 22), that the fetch
changes nothing D27 (log 20); where the platform has placed nothing is the model's choice (log 26); the half-word at
an odd `pc`, which no run reaches, is read as log 32 says. When a request is accepted is D13 and D14 (log 25). -/
def Obligations.StepRunsTheDecodedInstruction : Prop :=
  ∀ (s : State) (i : Instr),
    ¬(s.p = false ∧ s.bt = none ∧ (s.irqs.headD noRequest).irq = true ∧ s.status.ie = true ∧
      (s.irqs.headD noRequest).number.toNat < s.status.ipri.toNat) →
    populatedRange s.cfg s.pc.toNat 2 = true → s.storedOver s.pc = false →
    decode s.cfg.hasMul (Memory.readByte s.mem (s.pc.toNat + 1) ++ Memory.readByte s.mem s.pc.toNat) = .ok i →
    step s = exec i { s with irqs := s.irqs.tail }

/-- Where no interrupt is accepted and there is nothing to run at `pc`, the step says why: nothing is there (R104),
the CPU has stored into it (20_memory R109, decision D10), the word is no instruction (30_encoding R147, decision
D11). The model's choice of log 10, log 19, log 26. The byte order of the half-word is decision D38 (log 22), the
acceptance of a request D13 and D14 (log 25), which of several stops is reported log 29; the half-word at an odd `pc`,
which no run reaches, is read as log 32 says. -/
def Obligations.StepStopsWhereThereIsNothingToRun : Prop :=
  ∀ (s : State), s.acceptsInterrupt = false →
    (populatedRange s.cfg s.pc.toNat 2 = false → step s = .fault .unpopulatedAddress) ∧
    (populatedRange s.cfg s.pc.toNat 2 = true → s.storedOver s.pc = true → step s = .refused .storedInstruction) ∧
    (populatedRange s.cfg s.pc.toNat 2 = true → s.storedOver s.pc = false →
      ∀ why, decode s.cfg.hasMul (Memory.readByte s.mem (s.pc.toNat + 1) ++ Memory.readByte s.mem s.pc.toNat) =
          .error why →
        step s = .fault (.unassigned why))

/-! ## Registers -/

/-- Where each visible register is (10_state R33): a global register at its number whatever the window, register i of
a window inside the file at `W[16*CWP + (i - 8)]`, which is place `8 + (16*CWP + (i - 8))`; and every such place is
one of the NREG registers. That the file is one vector of 512 places is the model's (log 28). -/
def Obligations.RegisterPlaces : Prop :=
  ∀ (s : State) (r : RegIx),
    (r.toNat < 8 → ∃ i, s.phys r = some i ∧ i.val = r.toNat) ∧
    (8 ≤ r.toNat → s.status.cwp.toNat ≤ s.cfg.nreg.count / 16 - 2 →
      ∃ i, s.phys r = some i ∧ i.val = 8 + (16 * s.status.cwp.toNat + (r.toNat - 8))) ∧
    (∀ i, s.phys r = some i →
      i.val < s.cfg.nreg.count ∧ readReg s r = .next (s.regs.get i) ∧
        ∀ v, writeReg s r v = .next { s with regs := s.regs.set i v })

/-- The out registers of the window at CWP = c are the in registers of the window at CWP = c - 1, which sees none of
the in registers of c; and the local registers of a window position are no register of any other (10_state R34). -/
def Obligations.WindowsOverlapInOutsOnly : Prop :=
  ∀ (cfg : Config) (c : BitVec 5), c.toNat ≤ cfg.cwpMax →
    (1 ≤ c.toNat → ∀ n, n < 8 →
      ∃ i, physReg cfg c (BitVec.ofNat 5 (8 + n)) = some i ∧ physReg cfg (c - 1#5) (BitVec.ofNat 5 (24 + n)) = some i) ∧
    (1 ≤ c.toNat → ∀ (n : Nat) (r : RegIx) (i : Fin 512), n < 8 →
      physReg cfg c (BitVec.ofNat 5 (24 + n)) = some i → physReg cfg (c - 1#5) r ≠ some i) ∧
    (∀ (c' : BitVec 5) (n : Nat) (r : RegIx) (i : Fin 512), n < 8 →
      physReg cfg c (BitVec.ofNat 5 (16 + n)) = some i → physReg cfg c' r = some i →
      c' = c ∧ r = BitVec.ofNat 5 (16 + n))

/-- A window beyond the file supplies no register, and an instruction that needs one does not complete; the
globals do not depend on it (10_state R35). The stop is decision D19 of the spec (log 15). -/
def Obligations.WindowOutsideTheFileStops : Prop :=
  ∀ (s : State) (r : RegIx),
    (s.phys r = none ↔ 8 ≤ r.toNat ∧ s.cfg.cwpMax < s.status.cwp.toNat) ∧
    (s.phys r = none →
      readReg s r = .fault .windowOutsideFile ∧ (∀ v, writeReg s r v = .fault .windowOutsideFile) ∧
        (∀ b, exec (.mov r b) s = .fault .windowOutsideFile) ∧
        ∀ (i : Instr) (t : State), r ∈ accesses s.p i → exec i s ≠ .next t)

/-! ## Arithmetic -/

/-- ADD and ADDI: the sum modulo 2^32, and all four flags from it (40_arithmetic R182, R183). -/
def Obligations.AdditionWritesSumAndFlags : Prop :=
  ∀ (s : State) (a b : RegIx) (imm5 : BitVec 5) (i : Fin 512), s.phys a = some i →
    encode (.add a b) = 0b000000#6 ++ b ++ a ∧
    encode (.addi a imm5) = 0b000001#6 ++ imm5 ++ a ∧
    (∀ j, s.phys b = some j →
      ∃ t, exec (.add a b) s = .next t ∧
        s.endsAs
          { s with
            regs := s.regs.set i (s.regs.get i + s.regs.get j)
            status := { s.status with flags := sumFlags (s.regs.get i) (s.regs.get j) } } t) ∧
    ∃ t, exec (.addi a imm5) s = .next t ∧
      s.endsAs
        { s with
          regs := s.regs.set i (s.regs.get i + BitVec.ofNat 32 (prefixedConstant s.k imm5))
          status :=
            { s.status with
              flags := sumFlags (s.regs.get i) (BitVec.ofNat 32 (prefixedConstant s.k imm5)) } } t

/-- SUB and SUBI: the difference modulo 2^32, and all four flags from it, C the borrow (40_arithmetic R184,
R185). -/
def Obligations.SubtractionWritesDifferenceAndFlags : Prop :=
  ∀ (s : State) (a b : RegIx) (imm5 : BitVec 5) (i : Fin 512), s.phys a = some i →
    encode (.sub a b) = 0b000010#6 ++ b ++ a ∧
    encode (.subi a imm5) = 0b000011#6 ++ imm5 ++ a ∧
    (∀ j, s.phys b = some j →
      ∃ t, exec (.sub a b) s = .next t ∧
        s.endsAs
          { s with
            regs := s.regs.set i (s.regs.get i - s.regs.get j)
            status := { s.status with flags := differenceFlags (s.regs.get i) (s.regs.get j) } } t) ∧
    ∃ t, exec (.subi a imm5) s = .next t ∧
      s.endsAs
        { s with
          regs := s.regs.set i (s.regs.get i - BitVec.ofNat 32 (prefixedConstant s.k imm5))
          status :=
            { s.status with
              flags := differenceFlags (s.regs.get i) (BitVec.ofNat 32 (prefixedConstant s.k imm5)) } } t

/-- CMP and CMPI: the flags of the difference, and no register at all (40_arithmetic R186, R187). -/
def Obligations.CompareWritesOnlyTheFlags : Prop :=
  ∀ (s : State) (a b : RegIx) (imm5 : BitVec 5) (i : Fin 512), s.phys a = some i →
    encode (.cmp a b) = 0b000100#6 ++ b ++ a ∧
    encode (.cmpi a imm5) = 0b000101#6 ++ imm5 ++ a ∧
    (∀ j, s.phys b = some j →
      ∃ t, exec (.cmp a b) s = .next t ∧
        s.endsAs
          { s with status := { s.status with flags := differenceFlags (s.regs.get i) (s.regs.get j) } } t) ∧
    ∃ t, exec (.cmpi a imm5) s = .next t ∧
      s.endsAs
        { s with
          status :=
            { s.status with
              flags := differenceFlags (s.regs.get i) (BitVec.ofNat 32 (prefixedConstant s.k imm5)) } } t

/-- What the fourteen SKPS conditions mean after `CMP a,b` (44_control_flow R311, last column; the spec derives
it from R181 and R186). -/
def Obligations.ConditionsAfterCompareOrderTheOperands : Prop :=
  ∀ (s t : State) (a b : RegIx) (i j : Fin 512), s.phys a = some i → s.phys b = some j →
    exec (.cmp a b) s = .next t →
    let x := s.regs.get i
    let y := s.regs.get j
    skpsCondition 0#4 t.status.flags = some (decide (x.toNat < y.toNat)) ∧
    skpsCondition 1#4 t.status.flags = some (decide (y.toNat ≤ x.toNat)) ∧
    skpsCondition 2#4 t.status.flags = some (decide (x = y)) ∧
    skpsCondition 3#4 t.status.flags = some (decide (x ≠ y)) ∧
    skpsCondition 4#4 t.status.flags = some (decide ((x - y).toInt < 0)) ∧
    skpsCondition 5#4 t.status.flags = some (decide (0 ≤ (x - y).toInt)) ∧
    skpsCondition 6#4 t.status.flags = some (decide (y.toInt ≤ x.toInt)) ∧
    skpsCondition 7#4 t.status.flags = some (decide (x.toInt < y.toInt)) ∧
    skpsCondition 8#4 t.status.flags = some (decide (x.toInt ≤ y.toInt)) ∧
    skpsCondition 9#4 t.status.flags = some (decide (y.toInt < x.toInt)) ∧
    skpsCondition 10#4 t.status.flags = some (decide ((x - y).toInt ≠ x.toInt - y.toInt)) ∧
    skpsCondition 11#4 t.status.flags = some (decide ((x - y).toInt = x.toInt - y.toInt)) ∧
    skpsCondition 12#4 t.status.flags = some (decide (x.toNat ≤ y.toNat)) ∧
    skpsCondition 13#4 t.status.flags = some (decide (y.toNat < x.toNat))

/-- NEG, ABS and NOT: the register, and no flag (40_arithmetic R188, R189, 41_logic_move_extract R214). ABS negates
a negative number modulo 2^32. -/
def Obligations.NegateAbsoluteAndNotWriteNoFlag : Prop :=
  ∀ (s : State) (a : RegIx) (i : Fin 512), s.phys a = some i →
    encode (.abs a) = 0b01111100010#11 ++ a ∧
    encode (.neg a) = 0b01111100001#11 ++ a ∧
    encode (.not a) = 0b01111100000#11 ++ a ∧
    (∃ t, exec (.abs a) s = .next t ∧
      s.endsAs
        { s with
          regs := s.regs.set i
            (if (s.regs.get i).toInt < 0 then BitVec.ofInt 32 (-(s.regs.get i).toInt) else s.regs.get i) } t) ∧
    (∃ t, exec (.neg a) s = .next t ∧
      s.endsAs { s with regs := s.regs.set i (BitVec.ofInt 32 (-(s.regs.get i).toInt)) } t) ∧
    (∃ t, exec (.not a) s = .next t ∧
      s.endsAs { s with regs := s.regs.set i (BitVec.ofNat 32 (2 ^ 32 - 1 - (s.regs.get i).toNat)) } t)

/-- MSTEP: the accumulator %r0 doubled, and x[A] added where its old bit 31 was 1, modulo 2^32 (40_arithmetic
R191). -/
def Obligations.MultiplyStepDoublesAndAdds : Prop :=
  ∀ (s : State) (a : RegIx) (i z : Fin 512), s.phys a = some i → s.phys 0#5 = some z →
    encode (.mstep a) = 0b01111110100#11 ++ a ∧
    ∃ t, exec (.mstep a) s = .next t ∧
      s.endsAs
        { s with
          regs := s.regs.set z
            (BitVec.ofNat 32
              (2 * (s.regs.get z).toNat + if 2 ^ 31 ≤ (s.regs.get z).toNat then (s.regs.get i).toNat else 0)) } t

/-- MUL: the unsigned product of the low halves of %r0 and x[A], where the CPU has MUL; no instruction elsewhere
(40_arithmetic R190, 30_encoding R139). Its word is from outside the manual (PRESUMED, log 9), and that it is a fault
where absent is decision D30. That an unassigned word is a fault is decision D11 (log 10). -/
def Obligations.MultiplyOfLowHalves : Prop :=
  ∀ (s : State) (a : RegIx) (i z : Fin 512), s.phys a = some i → s.phys 0#5 = some z →
    (s.cfg.hasMul = true →
      ∃ t, exec (.mul a) s = .next t ∧
        s.endsAs
          { s with
            regs := s.regs.set z
              (BitVec.ofNat 32 (((s.regs.get z).toNat % 2 ^ 16) * ((s.regs.get i).toNat % 2 ^ 16))) } t) ∧
    (s.cfg.hasMul = false → exec (.mul a) s = .fault (.unassigned .mulAbsent))

/-- The multiply idiom: SWAP %r0 and sixteen MSTEP %r1 leave in %r0 the product of two numbers below 2^16, and
change nothing else but `pc` and the cleared K and P (40_arithmetic R192, which the spec derives; the wrap of `pc` is
decision D7, log 16). -/
def Obligations.SwapAndSixteenStepsMultiply : Prop :=
  ∀ (s : State) (m n : Nat), m < 2 ^ 16 → n < 2 ^ 16 → s.bt = none →
    s.regs.get 0 = BitVec.ofNat 32 m → s.regs.get 1 = BitVec.ofNat 32 n →
    execAll (.swap 0#5 :: List.replicate 16 (.mstep 1#5)) s =
      .next
        { s with
          regs := s.regs.set 0 (BitVec.ofNat 32 (m * n))
          k := 0#11
          p := false
          pc := s.pc + 34#33 }

/-! ## Logic, moves, extracts, fills -/

/-- AND, ANDN, OR and XOR: the second operand is the constant K : IMM5 right after a PFX and a register otherwise;
N and Z are written, V and C kept (41_logic_move_extract R210 to R213, R215). -/
def Obligations.LogicInBothForms : Prop :=
  ∀ (s : State) (a : RegIx) (bi : BitVec 5) (i : Fin 512) (y : Word), s.phys a = some i →
    ((s.p = true ∧ y = BitVec.ofNat 32 (prefixedConstant s.k bi)) ∨
      (s.p = false ∧ ∃ j, s.phys bi = some j ∧ y = s.regs.get j)) →
    encode (.and a bi) = 0b001110#6 ++ bi ++ a ∧
    encode (.andn a bi) = 0b001111#6 ++ bi ++ a ∧
    encode (.or a bi) = 0b010000#6 ++ bi ++ a ∧
    encode (.xor a bi) = 0b010001#6 ++ bi ++ a ∧
    (∃ t, exec (.and a bi) s = .next t ∧
      s.endsAs
        { s with
          regs := s.regs.set i (s.regs.get i &&& y)
          status := { s.status with flags := signAndZero (s.regs.get i &&& y) s.status.flags } } t) ∧
    (∃ t, exec (.andn a bi) s = .next t ∧
      s.endsAs
        { s with
          regs := s.regs.set i (s.regs.get i &&& ~~~y)
          status := { s.status with flags := signAndZero (s.regs.get i &&& ~~~y) s.status.flags } } t) ∧
    (∃ t, exec (.or a bi) s = .next t ∧
      s.endsAs
        { s with
          regs := s.regs.set i (s.regs.get i ||| y)
          status := { s.status with flags := signAndZero (s.regs.get i ||| y) s.status.flags } } t) ∧
    ∃ t, exec (.xor a bi) s = .next t ∧
      s.endsAs
        { s with
          regs := s.regs.set i (s.regs.get i ^^^ y)
          status := { s.status with flags := signAndZero (s.regs.get i ^^^ y) s.status.flags } } t

/-- MOV, MOVI, MOVHI and BGEN (41_logic_move_extract R216 to R219). -/
def Obligations.MovesAndConstants : Prop :=
  ∀ (s : State) (a b : RegIx) (imm5 : BitVec 5) (i : Fin 512), s.phys a = some i →
    encode (.mov a b) = 0b001100#6 ++ b ++ a ∧
    encode (.movi a imm5) = 0b001101#6 ++ imm5 ++ a ∧
    encode (.movhi a imm5) = 0b011011#6 ++ imm5 ++ a ∧
    encode (.bgen a imm5) = 0b010010#6 ++ imm5 ++ a ∧
    (∀ j, s.phys b = some j →
      ∃ t, exec (.mov a b) s = .next t ∧ s.endsAs { s with regs := s.regs.set i (s.regs.get j) } t) ∧
    (∃ t, exec (.movi a imm5) s = .next t ∧
      s.endsAs { s with regs := s.regs.set i (BitVec.ofNat 32 (prefixedConstant s.k imm5)) } t) ∧
    (∃ t, exec (.movhi a imm5) s = .next t ∧
      s.endsAs
        { s with
          regs := s.regs.set i
            (BitVec.ofNat 32 (2 ^ 16 * prefixedConstant s.k imm5 + (s.regs.get i).toNat % 2 ^ 16)) } t) ∧
    ∃ t, exec (.bgen a imm5) s = .next t ∧
      s.endsAs { s with regs := s.regs.set i (BitVec.ofNat 32 (2 ^ imm5.toNat)) } t

/-- SEXT8, SEXT16 and SWAP (41_logic_move_extract R220 to R222). -/
def Obligations.SignExtensionsAndSwap : Prop :=
  ∀ (s : State) (a : RegIx) (i : Fin 512), s.phys a = some i →
    encode (.sext8 a) = 0b01111100011#11 ++ a ∧
    encode (.sext16 a) = 0b01111100100#11 ++ a ∧
    encode (.swap a) = 0b01111101000#11 ++ a ∧
    (∃ t, exec (.sext8 a) s = .next t ∧
      s.endsAs { s with regs := s.regs.set i (BitVec.ofInt 32 ((s.regs.get i).extractLsb' 0 8).toInt) } t) ∧
    (∃ t, exec (.sext16 a) s = .next t ∧
      s.endsAs { s with regs := s.regs.set i (BitVec.ofInt 32 ((s.regs.get i).extractLsb' 0 16).toInt) } t) ∧
    ∃ t, exec (.swap a) s = .next t ∧
      s.endsAs
        { s with
          regs := s.regs.set i
            (BitVec.ofNat 32 (2 ^ 16 * ((s.regs.get i).toNat % 2 ^ 16) + (s.regs.get i).toNat / 2 ^ 16)) } t

/-- EXT8d, EXT8s, EXT16d and EXT16s: the byte or half-word numbered n, zero-extended; the dynamic forms take n from
bits 1:0, or bit 1, of x[B] (41_logic_move_extract R224 to R227). -/
def Obligations.ExtractsSelectAByteOrHalfWord : Prop :=
  ∀ (s : State) (a b : RegIx) (imm2 : BitVec 2) (imm1 : BitVec 1) (i : Fin 512), s.phys a = some i →
    encode (.ext8d a b) = 0b010011#6 ++ b ++ a ∧
    encode (.ext8s a imm2) = 0b011101000#9 ++ imm2 ++ a ∧
    encode (.ext16d a b) = 0b011010#6 ++ b ++ a ∧
    encode (.ext16s a imm1) = 0b011101001#9 ++ imm1 ++ 0#1 ++ a ∧
    (∀ j, s.phys b = some j →
      (∃ t, exec (.ext8d a b) s = .next t ∧
        s.endsAs
          { s with
            regs := s.regs.set i
              (BitVec.ofNat 32 ((s.regs.get i).toNat / 2 ^ (8 * ((s.regs.get j).toNat % 4)) % 2 ^ 8)) } t) ∧
      ∃ t, exec (.ext16d a b) s = .next t ∧
        s.endsAs
          { s with
            regs := s.regs.set i
              (BitVec.ofNat 32 ((s.regs.get i).toNat / 2 ^ (16 * ((s.regs.get j).toNat / 2 % 2)) % 2 ^ 16)) } t) ∧
    (∃ t, exec (.ext8s a imm2) s = .next t ∧
      s.endsAs
        { s with regs := s.regs.set i (BitVec.ofNat 32 ((s.regs.get i).toNat / 2 ^ (8 * imm2.toNat) % 2 ^ 8)) } t) ∧
    ∃ t, exec (.ext16s a imm1) s = .next t ∧
      s.endsAs
        { s with regs := s.regs.set i (BitVec.ofNat 32 ((s.regs.get i).toNat / 2 ^ (16 * imm1.toNat) % 2 ^ 16)) } t

/-- FILL8 and FILL16: every byte, or both half-words, of %r0 are the low one of x[A] (41_logic_move_extract R228,
R229). -/
def Obligations.FillsReplicateIntoRegisterZero : Prop :=
  ∀ (s : State) (a : RegIx) (i z : Fin 512), s.phys a = some i → s.phys 0#5 = some z →
    encode (.fill8 a) = 0b01111110010#11 ++ a ∧
    encode (.fill16 a) = 0b01111110011#11 ++ a ∧
    (∃ t, exec (.fill8 a) s = .next t ∧
      s.endsAs
        { s with regs := s.regs.set z (BitVec.ofNat 32 (0x01010101 * ((s.regs.get i).toNat % 2 ^ 8))) } t) ∧
    ∃ t, exec (.fill16 a) s = .next t ∧
      s.endsAs
        { s with regs := s.regs.set z (BitVec.ofNat 32 (0x00010001 * ((s.regs.get i).toNat % 2 ^ 16))) } t

/-! ## Shifts and rotates -/

/-- The six shifts: the count is x[B] modulo 32 or the field, left shifts multiply modulo 2^32, logical right shifts
divide the unsigned value, arithmetic ones the signed value rounding down; no flag (42_shift_rotate R251 to
R256). -/
def Obligations.ShiftsMoveByACountBelow32 : Prop :=
  ∀ (s : State) (a b : RegIx) (imm5 : BitVec 5) (i : Fin 512), s.phys a = some i →
    encode (.lsl a b) = 0b000110#6 ++ b ++ a ∧ encode (.lsli a imm5) = 0b000111#6 ++ imm5 ++ a ∧
    encode (.lsr a b) = 0b001000#6 ++ b ++ a ∧ encode (.lsri a imm5) = 0b001001#6 ++ imm5 ++ a ∧
    encode (.asr a b) = 0b001010#6 ++ b ++ a ∧ encode (.asri a imm5) = 0b001011#6 ++ imm5 ++ a ∧
    (∀ j, s.phys b = some j →
      (∃ t, exec (.lsl a b) s = .next t ∧
        s.endsAs
          { s with
            regs := s.regs.set i
              (BitVec.ofNat 32 ((s.regs.get i).toNat * 2 ^ ((s.regs.get j).toNat % 32))) } t) ∧
      (∃ t, exec (.lsr a b) s = .next t ∧
        s.endsAs
          { s with
            regs := s.regs.set i
              (BitVec.ofNat 32 ((s.regs.get i).toNat / 2 ^ ((s.regs.get j).toNat % 32))) } t) ∧
      ∃ t, exec (.asr a b) s = .next t ∧
        s.endsAs
          { s with
            regs := s.regs.set i
              (BitVec.ofInt 32 ((s.regs.get i).toInt / 2 ^ ((s.regs.get j).toNat % 32))) } t) ∧
    (∃ t, exec (.lsli a imm5) s = .next t ∧
      s.endsAs
        { s with regs := s.regs.set i (BitVec.ofNat 32 ((s.regs.get i).toNat * 2 ^ imm5.toNat)) } t) ∧
    (∃ t, exec (.lsri a imm5) s = .next t ∧
      s.endsAs
        { s with regs := s.regs.set i (BitVec.ofNat 32 ((s.regs.get i).toNat / 2 ^ imm5.toNat)) } t) ∧
    ∃ t, exec (.asri a imm5) s = .next t ∧
      s.endsAs
        { s with regs := s.regs.set i (BitVec.ofInt 32 ((s.regs.get i).toInt / 2 ^ imm5.toNat)) } t

/-- RLC and RRC: a 33-bit rotate of C : x[A] by one place; only C of the flags is written (42_shift_rotate R257,
R258). That the old C enters the register is decision D20 of the spec (log 23). -/
def Obligations.RotatesGoThroughTheCarry : Prop :=
  ∀ (s : State) (a : RegIx) (i : Fin 512), s.phys a = some i →
    encode (.rlc a) = 0b01111100101#11 ++ a ∧
    encode (.rrc a) = 0b01111100110#11 ++ a ∧
    (∃ t, exec (.rlc a) s = .next t ∧
      s.endsAs
        { s with
          regs := s.regs.set i
            (BitVec.ofNat 32 (2 * (s.regs.get i).toNat + if s.status.flags.c then 1 else 0))
          status :=
            { s.status with flags := { s.status.flags with c := decide (2 ^ 31 ≤ (s.regs.get i).toNat) } } } t) ∧
    ∃ t, exec (.rrc a) s = .next t ∧
      s.endsAs
        { s with
          regs := s.regs.set i
            (BitVec.ofNat 32 ((s.regs.get i).toNat / 2 + if s.status.flags.c then 2 ^ 31 else 0))
          status :=
            { s.status with flags := { s.status.flags with c := decide ((s.regs.get i).toNat % 2 = 1) } } } t

/-- RLC then RRC on one register, and 33 times RLC, leave the register and the flags as they were (42_shift_rotate
R257, R258, corner cases; decision D20, log 23; the wrap of `pc` is D7, log 16). -/
def Obligations.RotatesComeBackToTheStart : Prop :=
  ∀ (s : State) (a : RegIx) (i : Fin 512), s.phys a = some i → s.bt = none →
    execAll [.rlc a, .rrc a] s = .next { s with k := 0#11, p := false, pc := s.pc + 4#33 } ∧
    execAll (List.replicate 33 (.rlc a)) s = .next { s with k := 0#11, p := false, pc := s.pc + 66#33 }

/-! ## Loads and stores -/

/-- The effective addresses as sums of integers modulo 2^32, the two low bits dropped; the lane of a partial store
added (43_load_store R270, R277, R279, R281, R282). That they wrap at 2^32 and that bit 32 of the bus address is 0
is decision D8 of the spec (log 17). -/
def Obligations.EffectiveAddressesAreAligned : Prop :=
  ∀ (x : Word) (k : BitVec 11) (imm5 : BitVec 5) (imm8 : BitVec 8) (imm9 : BitVec 9) (imm10 : BitVec 10),
    (eaIndirect x k).toNat = ((x.toInt + 4 * k.toInt) % 2 ^ 32).toNat / 4 * 4 ∧
    (eaPointer x k imm5).toNat = ((x.toInt + 4 * (k ++ imm5).toInt) % 2 ^ 32).toNat / 4 * 4 ∧
    (eaStackWord x imm8).toNat = (x.toNat + 4 * imm8.toNat) % 2 ^ 32 / 4 * 4 ∧
    (eaStackHalf x imm9).toNat = (x.toNat + 2 * imm9.toNat) % 2 ^ 32 / 4 * 4 + 2 * (imm9.toNat % 2) ∧
    (eaStackByte x imm10).toNat = (x.toNat + imm10.toNat) % 2 ^ 32 / 4 * 4 + imm10.toNat % 4 ∧
    (∀ n, (eaByte (eaIndirect x k) n).toNat = (eaIndirect x k).toNat + n.toNat) ∧
    (∀ n, (eaHalf (eaIndirect x k) n).toNat = (eaIndirect x k).toNat + 2 * n.toNat) ∧
    (eaByte (eaIndirect x k) (x.extractLsb' 0 2)).toNat = ((x.toInt + 4 * k.toInt) % 2 ^ 32).toNat

/-- LD, LDP and LDS: the little-endian word at the effective address, where the platform has one (43_load_store R271,
R273, R275, 20_memory R90). The address is decision D8 (log 17), the stop elsewhere log 26. That the load sees memory
as the stores before it left it is D9 (log 18), that what the platform has placed is plain memory log 8. -/
def Obligations.LoadsReadTheAlignedWord : Prop :=
  ∀ (s : State) (a b : RegIx) (p : BitVec 2) (imm5 : BitVec 5) (imm8 : BitVec 8) (i : Fin 512), s.phys a = some i →
    (∀ j, s.phys b = some j →
      let ea := (eaIndirect (s.regs.get j) s.k).toNat
      (populatedRange s.cfg ea 4 = true →
        ∃ t, exec (.ld a b) s = .next t ∧
          s.endsAs
            { s with
              regs := s.regs.set i
                (Memory.readByte s.mem (ea + 3) ++ Memory.readByte s.mem (ea + 2) ++
                  Memory.readByte s.mem (ea + 1) ++ Memory.readByte s.mem ea) } t) ∧
      (populatedRange s.cfg ea 4 = false → exec (.ld a b) s = .fault .unpopulatedAddress)) ∧
    (∀ j, s.phys (BitVec.ofNat 5 (16 + p.toNat)) = some j →
      let ea := (eaPointer (s.regs.get j) s.k imm5).toNat
      (populatedRange s.cfg ea 4 = true →
        ∃ t, exec (.ldp a p imm5) s = .next t ∧
          s.endsAs
            { s with
              regs := s.regs.set i
                (Memory.readByte s.mem (ea + 3) ++ Memory.readByte s.mem (ea + 2) ++
                  Memory.readByte s.mem (ea + 1) ++ Memory.readByte s.mem ea) } t) ∧
      (populatedRange s.cfg ea 4 = false → exec (.ldp a p imm5) s = .fault .unpopulatedAddress)) ∧
    (∀ j, s.phys 14#5 = some j →
      let ea := (eaStackWord (s.regs.get j) imm8).toNat
      (populatedRange s.cfg ea 4 = true →
        ∃ t, exec (.lds a imm8) s = .next t ∧
          s.endsAs
            { s with
              regs := s.regs.set i
                (Memory.readByte s.mem (ea + 3) ++ Memory.readByte s.mem (ea + 2) ++
                  Memory.readByte s.mem (ea + 1) ++ Memory.readByte s.mem ea) } t) ∧
      (populatedRange s.cfg ea 4 = false → exec (.lds a imm8) s = .fault .unpopulatedAddress))

/-- ST, STP and STS: the four bytes of x[A] at the effective address, bits 7:0 lowest, and every other byte as before
(43_load_store R272, R274, R276, 20_memory R90, R94). The address is decision D8 (log 17), the stop log 26. That the
store is complete at once is D9 (log 18), that it is noted D10 (log 19), that what the platform has placed is plain
memory and no ROM log 8 and log 34. -/
def Obligations.WordStoresWriteFourBytes : Prop :=
  ∀ (s : State) (a b : RegIx) (p : BitVec 2) (imm5 : BitVec 5) (imm8 : BitVec 8) (i : Fin 512), s.phys a = some i →
    let v := s.regs.get i
    let bs : List Byte := [v.extractLsb' 0 8, v.extractLsb' 8 8, v.extractLsb' 16 8, v.extractLsb' 24 8]
    (∀ j, s.phys b = some j →
      let ea := (eaIndirect (s.regs.get j) s.k).toNat
      (populatedRange s.cfg ea 4 = true → ∃ t, exec (.st a b) s = .next t ∧ s.storedAs ea bs t) ∧
      (populatedRange s.cfg ea 4 = false → exec (.st a b) s = .fault .unpopulatedAddress)) ∧
    (∀ j, s.phys (BitVec.ofNat 5 (16 + p.toNat)) = some j →
      let ea := (eaPointer (s.regs.get j) s.k imm5).toNat
      (populatedRange s.cfg ea 4 = true → ∃ t, exec (.stp a p imm5) s = .next t ∧ s.storedAs ea bs t) ∧
      (populatedRange s.cfg ea 4 = false → exec (.stp a p imm5) s = .fault .unpopulatedAddress)) ∧
    (∀ j, s.phys 14#5 = some j →
      let ea := (eaStackWord (s.regs.get j) imm8).toNat
      (populatedRange s.cfg ea 4 = true → ∃ t, exec (.sts a imm8) s = .next t ∧ s.storedAs ea bs t) ∧
      (populatedRange s.cfg ea 4 = false → exec (.sts a imm8) s = .fault .unpopulatedAddress))

/-- ST8d, ST8s and STS8s: byte n of %r0 at the address of lane n, and every other byte as before (43_load_store R277,
R278, R281, 20_memory R96). The address is decision D8 (log 17), the stop log 26. That the store is complete at once
is D9 (log 18), that it is noted D10 (log 19), that what the platform has placed is plain memory and no ROM log 8 and
log 34. -/
def Obligations.ByteStoresWriteTheirLane : Prop :=
  ∀ (s : State) (z : Fin 512), s.phys 0#5 = some z →
    (∀ a i, s.phys a = some i →
      let x := s.regs.get i
      let ea := (eaByte (eaIndirect x s.k) (x.extractLsb' 0 2)).toNat
      (populatedRange s.cfg ea 1 = true →
        ∃ t, exec (.st8d a) s = .next t ∧
          s.storedAs ea [(s.regs.get z).extractLsb' (8 * (x.toNat % 4)) 8] t) ∧
      (populatedRange s.cfg ea 1 = false → exec (.st8d a) s = .fault .unpopulatedAddress)) ∧
    (∀ a i n, s.phys a = some i →
      let ea := (eaByte (eaIndirect (s.regs.get i) s.k) n).toNat
      (populatedRange s.cfg ea 1 = true →
        ∃ t, exec (.st8s a n) s = .next t ∧
          s.storedAs ea [(s.regs.get z).extractLsb' (8 * n.toNat) 8] t) ∧
      (populatedRange s.cfg ea 1 = false → exec (.st8s a n) s = .fault .unpopulatedAddress)) ∧
    (∀ imm10 i, s.phys 14#5 = some i →
      let ea := (eaStackByte (s.regs.get i) imm10).toNat
      (populatedRange s.cfg ea 1 = true →
        ∃ t, exec (.sts8s imm10) s = .next t ∧
          s.storedAs ea [(s.regs.get z).extractLsb' (8 * (imm10.toNat % 4)) 8] t) ∧
      (populatedRange s.cfg ea 1 = false → exec (.sts8s imm10) s = .fault .unpopulatedAddress))

/-- ST16d, ST16s and STS16s: half-word n of %r0, low byte first, at the address of lane n, and every other byte as
before (43_load_store R279, R280, R282, 20_memory R94, R96). The address is decision D8 (log 17), the stop log 26.
That the store is complete at once is D9 (log 18), that it is noted D10 (log 19), that what the platform has placed is
plain memory and no ROM log 8 and log 34. -/
def Obligations.HalfWordStoresWriteTheirLane : Prop :=
  ∀ (s : State) (z : Fin 512), s.phys 0#5 = some z →
    let v := s.regs.get z
    (∀ a i, s.phys a = some i →
      let x := s.regs.get i
      let n := x.toNat / 2 % 2
      let ea := (eaHalf (eaIndirect x s.k) (x.extractLsb' 1 1)).toNat
      (populatedRange s.cfg ea 2 = true →
        ∃ t, exec (.st16d a) s = .next t ∧
          s.storedAs ea [v.extractLsb' (16 * n) 8, v.extractLsb' (16 * n + 8) 8] t) ∧
      (populatedRange s.cfg ea 2 = false → exec (.st16d a) s = .fault .unpopulatedAddress)) ∧
    (∀ a i n, s.phys a = some i →
      let ea := (eaHalf (eaIndirect (s.regs.get i) s.k) n).toNat
      (populatedRange s.cfg ea 2 = true →
        ∃ t, exec (.st16s a n) s = .next t ∧
          s.storedAs ea [v.extractLsb' (16 * n.toNat) 8, v.extractLsb' (16 * n.toNat + 8) 8] t) ∧
      (populatedRange s.cfg ea 2 = false → exec (.st16s a n) s = .fault .unpopulatedAddress)) ∧
    (∀ imm9 i, s.phys 14#5 = some i →
      let n := imm9.toNat % 2
      let ea := (eaStackHalf (s.regs.get i) imm9).toNat
      (populatedRange s.cfg ea 2 = true →
        ∃ t, exec (.sts16s imm9) s = .next t ∧
          s.storedAs ea [v.extractLsb' (16 * n) 8, v.extractLsb' (16 * n + 8) 8] t) ∧
      (populatedRange s.cfg ea 2 = false → exec (.sts16s imm9) s = .fault .unpopulatedAddress))

/-- An instruction that is not one of the nine stores leaves every byte of memory as it was, and so does an exception
entered by way of one (20_memory R98, 60_exceptions R380). That stores are noted is D10 (log 19); devices and other
masters are outside the model (log 8). -/
def Obligations.OnlyStoresChangeMemory : Prop :=
  ∀ (i : Instr) (s t : State), isStore i = false → exec i s = .next t →
    (∀ a, Memory.readByte t.mem a = Memory.readByte s.mem a) ∧ t.mem = s.mem ∧ t.written = s.written

/-- A word stored and then loaded through the same pointer comes back, where the platform has the four bytes, also
when the load overwrites its own pointer (43_load_store R271, R272, R284). That a load returns the last value stored
to the same bytes is decision D9 of the spec (20_memory R106; log 18); the address is D8 (log 17). That what the
platform has placed is plain memory and no ROM is the model's choice (log 8, log 26, log 34). -/
def Obligations.StoreThenLoadReturnsTheWord : Prop :=
  ∀ (s : State) (a b c : RegIx) (i j l : Fin 512),
    s.phys a = some i → s.phys b = some j → s.phys c = some l → s.k = 0#11 →
    populatedRange s.cfg (eaIndirect (s.regs.get j) 0#11).toNat 4 = true →
    ∃ t, execAll [.st a b, .ld c b] s = .next t ∧
      t.regs = s.regs.set l (s.regs.get i) ∧ t.status = s.status

/-- The byte-store idiom: FILL8 of %rX and ST8d through %rA store the low byte of x[X] at the byte address in x[A],
whatever its lane, and no other byte (43_load_store R285, 41_logic_move_extract R230; D8, log 17). That the store is
complete at once is D9 (log 18); that what the platform has placed is plain memory and no ROM is the model's choice
(log 8, log 26, log 34). -/
def Obligations.FillThenStoreWritesTheByte : Prop :=
  ∀ (s : State) (x a : RegIx) (i j : Fin 512),
    s.phys x = some i → s.phys a = some j → a ≠ 0#5 →
    populated s.cfg (s.regs.get j).toNat = true →
    ∃ t, execAll [.fill8 x, .st8d a] s = .next t ∧
      Memory.readByte t.mem (s.regs.get j).toNat = (s.regs.get i).extractLsb' 0 8 ∧
      ∀ n, n ≠ (s.regs.get j).toNat → Memory.readByte t.mem n = Memory.readByte s.mem n

/-- The byte-load idiom: LD through %rB and EXT8d by %rB read the byte at the byte address in x[B], whatever its lane,
zero-extended (41_logic_move_extract R223, 43_load_store R286; D8, log 17). That the load sees memory as it stands is
D9 (log 18); that what the platform has placed is plain memory is the model's choice (log 8, log 26). -/
def Obligations.LoadThenExtractReadsTheByte : Prop :=
  ∀ (s : State) (a b : RegIx) (i j : Fin 512),
    s.phys a = some i → s.phys b = some j → a ≠ b → s.k = 0#11 →
    populatedRange s.cfg ((s.regs.get j).toNat / 4 * 4) 4 = true →
    ∃ t, execAll [.ld a b, .ext8d a b] s = .next t ∧
      t.regs = s.regs.set i (BitVec.ofNat 32 (Memory.readByte s.mem (s.regs.get j).toNat).toNat)

/-! ## Prefix and control flow -/

/-- PFX sets K and P and moves on by two (44_control_flow R300, 10_state R50, R52); right after another PFX it is a
fault, which is decision D26 of the spec (log 11). The wrap of `pc` is decision D7 (log 16). -/
def Obligations.PrefixSetsKAndP : Prop :=
  ∀ (s : State) (imm11 : BitVec 11), s.bt = none →
    (s.p = false → exec (.pfx imm11) s = .next { s with k := imm11, p := true, pc := s.pc + 2#33 }) ∧
    (s.p = true → exec (.pfx imm11) s = .fault .consecutivePfx)

/-- Every instruction but PFX that completes leaves K = 0 and P = 0, and one that does not use K runs as if no PFX
had been there (10_state R51; the list of those is 30_encoding R145, decision D37, log 31). -/
def Obligations.PrefixLastsOneInstruction : Prop :=
  ∀ (i : Instr) (s : State),
    ((∀ imm11, i ≠ .pfx imm11) → ∀ t, exec i s = .next t → t.k = 0#11 ∧ t.p = false) ∧
    (ignoresPrefix i = true → ∀ k p, exec i { s with k := k, p := p } = exec i s)

/-- Every instruction that is no PFX, control transfer, skip or window change ends with `finish()`: `pc` goes to the
pending target, which is cleared, or on by two modulo 2^33 (10_state R46; the wrap is decision D7, log 16). -/
def Obligations.OtherInstructionsEndWithFinish : Prop :=
  ∀ (i : Instr) (s t : State), barredFromDelaySlot i = false → i ≠ .restore → (∀ n, i ≠ .save n) →
    exec i s = .next t →
    t.pc = s.bt.getD (s.pc + 2#33) ∧ t.bt = none ∧ t.k = 0#11 ∧ t.p = false

/-- BR, BSR, JMP and CALL: the target is pending, `pc` goes on to the delay slot, and BSR and CALL put the address
after the slot, halved, into %o7, CALL after reading its own register (44_control_flow R301 to R304, R313). The
wrap at 2^33 is decision D7 (log 16). -/
def Obligations.BranchesLeaveTheTargetPending : Prop :=
  ∀ (s : State) (a : RegIx) (imm11 : BitVec 11), s.bt = none →
    let target : Addr := BitVec.ofInt 33 (s.pc.toNat + 2 + 2 * imm11.toInt)
    exec (.br imm11) s = .next { s with bt := some target, k := 0#11, p := false, pc := s.pc + 2#33 } ∧
    (∀ d, s.phys 15#5 = some d →
      exec (.bsr imm11) s =
        .next
          { s with
            regs := s.regs.set d (BitVec.ofNat 32 ((s.pc + 4#33).toNat / 2))
            bt := some target
            k := 0#11
            p := false
            pc := s.pc + 2#33 }) ∧
    (∀ i, s.phys a = some i →
      exec (.jmp a) s =
        .next
          { s with
            bt := some (BitVec.ofNat 33 (2 * (s.regs.get i).toNat))
            k := 0#11
            p := false
            pc := s.pc + 2#33 } ∧
      ∀ d, s.phys 15#5 = some d →
        exec (.call a) s =
          .next
            { s with
              regs := s.regs.set d (BitVec.ofNat 32 ((s.pc + 4#33).toNat / 2))
              bt := some (BitVec.ofNat 33 (2 * (s.regs.get i).toNat))
              k := 0#11
              p := false
              pc := s.pc + 2#33 })

/-- The five skips: with the condition false on by two; with it true over the next half-word, or over two when that is
a PFX (44_control_flow R305 to R311). The wrap of `pc` is decision D7 (log 16); the stops are D31 (log 10), R104
(log 26) and D10 (log 19). The byte order of the half-word looked at is decision D38 (log 22), that looking at it
changes nothing D27 (log 20). That a look-ahead with one byte missing and the other stored into reports the missing
one is the model's choice (log 29). -/
def Obligations.SkipsPassOverOneOrAPrefixedPair : Prop :=
  ∀ (s : State) (i : Instr) (cond : Bool), s.bt = none →
    ((∃ a n j, i = .skp0 a n ∧ s.phys a = some j ∧ cond = !(s.regs.get j).getLsbD n.toNat) ∨
      (∃ a n j, i = .skp1 a n ∧ s.phys a = some j ∧ cond = (s.regs.get j).getLsbD n.toNat) ∨
      (∃ a j, i = .skprz a ∧ s.phys a = some j ∧ cond = decide (s.regs.get j = 0#32)) ∨
      (∃ a j, i = .skprnz a ∧ s.phys a = some j ∧ cond = decide (s.regs.get j ≠ 0#32)) ∨
      (∃ n, i = .skps n ∧ skpsCondition n s.status.flags = some cond)) →
    let next : Addr := s.pc + 2#33
    let word : Half := Memory.readByte s.mem (next.toNat + 1) ++ Memory.readByte s.mem next.toNat
    (cond = false → exec i s = .next { s with k := 0#11, p := false, pc := next }) ∧
    (cond = true → populatedRange s.cfg next.toNat 2 = true → s.storedOver next = false →
      exec i s =
        .next
          { s with
            k := 0#11
            p := false
            pc := if word.extractLsb' 11 5 = 0b10011#5 then s.pc + 6#33 else s.pc + 4#33 }) ∧
    (cond = true → populatedRange s.cfg next.toNat 2 = false → exec i s = .fault .unpopulatedAddress) ∧
    (cond = true → populatedRange s.cfg next.toNat 2 = true → s.storedOver next = true →
      exec i s = .refused .storedInstruction)

/-- The condition table of SKPS (44_control_flow R311); a code without a row is no instruction, which is decision D31
of the spec (log 10). -/
def Obligations.SkipConditionTable : Prop :=
  ∀ (s : State),
    let f := s.status.flags
    (List.range 14).map (fun n => skpsCondition (BitVec.ofNat 4 n) f) =
      [some f.c, some (!f.c), some f.z, some (!f.z), some f.n, some (!f.n), some (!(f.n ^^ f.v)), some (f.n ^^ f.v),
        some (f.z || (f.n ^^ f.v)), some (!(f.z || (f.n ^^ f.v))), some f.v, some (!f.v), some (f.c || f.z),
        some (!(f.c || f.z))] ∧
    (s.bt = none → exec (.skps 14#4) s = .fault (.unassigned .skpsCondition) ∧
      exec (.skps 15#4) s = .fault (.unassigned .skpsCondition))

/-- The twelve instructions that may not stand in a delay slot fault there, and no other instruction gives that fault
anywhere (44_control_flow R322). That it is a fault is decision D25 of the spec (log 12). That it is reported before
any other stop is log 29. -/
def Obligations.TwelveInstructionsFaultInADelaySlot : Prop :=
  ∀ (i : Instr) (s : State),
    (barredFromDelaySlot i = true → s.bt ≠ none → exec i s = .fault .forbiddenInDelaySlot) ∧
    (barredFromDelaySlot i = false ∨ s.bt = none → exec i s ≠ .fault .forbiddenInDelaySlot)

/-! ## Windows -/

/-- SAVE that requests no underflow, or whose request is masked: CWP goes down by one, the new %sp is the old %sp
less 4*IMM8, nothing else changes (45_window_trap_control R330, 60_exceptions R372). That a masked request is
dropped is decision D15 (log 30), the stop at CWP = 0 decision D19 (log 15), the wrap of `pc` D7 (log 16). -/
def Obligations.SaveOpensAWindow : Prop :=
  ∀ (s : State) (imm8 : BitVec 8) (i : Fin 512), s.phys 14#5 = some i →
    (∀ d, physReg s.cfg (s.status.cwp - 1#5) 14#5 = some d →
      (s.status.cwp ≠ s.wvalid.loLimit ∨ s.status.ie = false ∨ s.status.ipri.toNat ≤ 1) →
      exec (.save imm8) s =
        .next
          { s with
            regs := s.regs.set d (s.regs.get i - BitVec.ofNat 32 (4 * imm8.toNat))
            status := { s.status with cwp := s.status.cwp - 1#5 }
            k := 0#11
            p := false
            bt := none
            pc := s.bt.getD (s.pc + 2#33) }) ∧
    (s.status.cwp = 0#5 → exec (.save imm8) s = .fault .windowOutsideFile)

/-- SAVE at LO_LIMIT with exceptions enabled and IPRI above 1: the SAVE completes, then exception 1 is entered in the
window it opened, with the instruction after it (or the pending target) as the return location (60_exceptions R372,
R380, R381). The ISTATUS value is decision D17, the return location D24, the entry's width D28 (log 21, log 30), the
wrap of `pc` D7 (log 16); the stop at a vector where the platform has placed nothing is the model's choice (log 26).
The wrap of the vector's address at 2^32 is decision D8 (log 17). -/
def Obligations.SaveAtTheLimitEntersTheUnderflowHandler : Prop :=
  ∀ (s : State) (imm8 : BitVec 8) (i d e : Fin 512), s.phys 14#5 = some i →
    physReg s.cfg (s.status.cwp - 1#5) 14#5 = some d → physReg s.cfg (s.status.cwp - 1#5) 15#5 = some e →
    s.status.cwp = s.wvalid.loLimit → s.status.ie = true → 1 < s.status.ipri.toNat →
    let vector := (s.cfg.vecBase + 4#32).toNat
    (populatedRange s.cfg vector 4 = true →
      exec (.save imm8) s =
        .next
          { s with
            regs := (s.regs.set d (s.regs.get i - BitVec.ofNat 32 (4 * imm8.toNat))).set e
              (BitVec.ofNat 32 ((s.bt.getD (s.pc + 2#33)).toNat / 2))
            istatus := { s.status with cwp := s.status.cwp - 1#5 }
            status := { s.status with cwp := s.status.cwp - 1#5, ie := false, ipri := 1#6 }
            k := 0#11
            p := false
            bt := none
            pc := BitVec.ofNat 33 (2 * (Memory.readWord s.mem vector).toNat) }) ∧
    (populatedRange s.cfg vector 4 = false → exec (.save imm8) s = .fault .unpopulatedAddress)

/-- RESTORE that requests no overflow, or whose request is masked: CWP goes up by one modulo 32 and no register
changes (45_window_trap_control R332, 60_exceptions R373). Decisions D15, D16 and D19 (log 15, log 30); the
wrap of `pc` is D7 (log 16). -/
def Obligations.RestoreClosesAWindow : Prop :=
  ∀ (s : State),
    (s.status.cwp ≠ s.wvalid.hiLimit ∨ s.status.ie = false ∨ s.status.ipri.toNat ≤ 2) →
    exec .restore s =
      .next
        { s with
          status := { s.status with cwp := s.status.cwp + 1#5 }
          k := 0#11
          p := false
          bt := none
          pc := s.bt.getD (s.pc + 2#33) }

/-- RESTORE at HI_LIMIT with exceptions enabled and IPRI above 2: the RESTORE completes, then exception 2 is entered;
the handler runs at HI_LIMIT and ISTATUS holds HI_LIMIT + 1 (60_exceptions R373, R380, R381). Decisions D16, D24 and
D28 (log 21, log 30) and D7 (log 16); the stop at a vector where the platform has placed nothing is the model's choice
(log 26). The ISTATUS value is decision D17 (log 30), the wrap of the vector's address at 2^32 decision D8
(log 17). -/
def Obligations.RestoreAtTheLimitEntersTheOverflowHandler : Prop :=
  ∀ (s : State) (e : Fin 512), s.phys 15#5 = some e →
    s.status.cwp = s.wvalid.hiLimit → s.status.ie = true → 2 < s.status.ipri.toNat →
    let vector := (s.cfg.vecBase + 8#32).toNat
    (populatedRange s.cfg vector 4 = true →
      exec .restore s =
        .next
          { s with
            regs := s.regs.set e (BitVec.ofNat 32 ((s.bt.getD (s.pc + 2#33)).toNat / 2))
            istatus := { s.status with cwp := s.status.cwp + 1#5 }
            status := { s.status with ie := false, ipri := 2#6 }
            k := 0#11
            p := false
            bt := none
            pc := BitVec.ofNat 33 (2 * (Memory.readWord s.mem vector).toNat) }) ∧
    (populatedRange s.cfg vector 4 = false → exec .restore s = .fault .unpopulatedAddress)

/-- SAVE then RESTORE with exceptions off: CWP and STATUS are as they were, and every register the caller sees is;
only %sp of the lower window was written (45_window_trap_control R333). That the masked requests are dropped is
decisions D15 and D16 (log 30). -/
def Obligations.SaveThenRestoreKeepsTheCallersRegisters : Prop :=
  ∀ (s : State) (imm8 : BitVec 8) (i d : Fin 512), s.phys 14#5 = some i →
    physReg s.cfg (s.status.cwp - 1#5) 14#5 = some d → s.status.ie = false →
    ∃ t, execAll [.save imm8, .restore] s = .next t ∧
      t.status = s.status ∧ t.istatus = s.istatus ∧
      t.regs = s.regs.set d (s.regs.get i - BitVec.ofNat 32 (4 * imm8.toNat)) ∧
      ∀ r j, s.phys r = some j → t.phys r = some j ∧ t.regs.get j = s.regs.get j

/-! ## Traps and interrupts -/

/-- TRAP: STATUS saved, IE cleared, CWP down by one, IPRI = IMM6, the address of the next instruction halved into %o7
of the new window, `pc` from the vector doubled, whatever IE and IPRI were (45_window_trap_control R334, 60_exceptions
R380). Wherever the new window lies outside the register file, at CWP = 0 or with CWP - 1 above CWP_MAX, the write of
%o7 stops it, which is decision D19 (log 15); that a vector where the platform has placed nothing is a fault is the
model's choice (log 26). The entry's width is decision D28 (log 21), the wrap of `pc` + 2 at 2^33 decision D7
(log 16), that of the vector's address at 2^32 decision D8 (log 17). That the window is tested before the vector is
log 29. -/
def Obligations.TrapEntersItsHandler : Prop :=
  ∀ (s : State) (imm6 : BitVec 6), s.bt = none →
    let vector := (s.cfg.vecBase + BitVec.ofNat 32 (4 * imm6.toNat)).toNat
    (∀ d, physReg s.cfg (s.status.cwp - 1#5) 15#5 = some d →
      (populatedRange s.cfg vector 4 = true →
        exec (.trap imm6) s =
          .next
            { s with
              regs := s.regs.set d (BitVec.ofNat 32 ((s.pc + 2#33).toNat / 2))
              istatus := s.status
              status := { s.status with cwp := s.status.cwp - 1#5, ie := false, ipri := imm6 }
              k := 0#11
              p := false
              pc := BitVec.ofNat 33 (2 * (Memory.readWord s.mem vector).toNat) }) ∧
      (populatedRange s.cfg vector 4 = false → exec (.trap imm6) s = .fault .unpopulatedAddress)) ∧
    (s.status.cwp = 0#5 ∨ s.cfg.cwpMax < (s.status.cwp - 1#5).toNat →
      exec (.trap imm6) s = .fault .windowOutsideFile)

/-- TRET: `pc` is x[A] doubled, read before STATUS changes, and STATUS is ISTATUS, all 16 bits; nothing else changes
(45_window_trap_control R336, 60_exceptions R390). In a delay slot it faults, which is decision D25 (log 12). -/
def Obligations.TrapReturnRestoresStatus : Prop :=
  ∀ (s : State) (a : RegIx) (i : Fin 512), s.phys a = some i → s.bt = none →
    encode (.tret a) = 0b01111101110#11 ++ a ∧
    exec (.tret a) s =
      .next
        { s with
          status := s.istatus
          k := 0#11
          p := false
          pc := BitVec.ofNat 33 (2 * (s.regs.get i).toNat) }

/-- TRAP followed by TRET %o7 comes back to the instruction after the TRAP with STATUS as it was, and changes no
register the interrupted program sees (45_window_trap_control R337; the wrap of `pc` is D7, log 16). The wrap of the
vector's address at 2^32 is decision D8 (log 17), the stop that its hypothesis rules out log 26. -/
def Obligations.TrapThenReturnResumes : Prop :=
  ∀ (s : State) (imm6 : BitVec 6) (d : Fin 512), s.bt = none → s.pc.getLsbD 0 = false →
    physReg s.cfg (s.status.cwp - 1#5) 15#5 = some d →
    populatedRange s.cfg (vectorAddr s.cfg imm6).toNat 4 = true →
    ∃ t, execAll [.trap imm6, .tret 15#5] s = .next t ∧
      t.pc = s.pc + 2#33 ∧ t.status = s.status ∧ t.istatus = s.status ∧ t.bt = none ∧ t.mem = s.mem ∧
      t.regs = s.regs.set d (BitVec.ofNat 32 ((s.pc + 2#33).toNat / 2)) ∧
      ∀ r j, s.phys r = some j → t.regs.get j = s.regs.get j

/-- An external interrupt is accepted at an instruction boundary when IE = 1, its number is below IPRI and neither a
PFX nor a branch is half done: the step is the entry sequence with the instruction not yet executed as the return
location (60_exceptions R366, R380, R382). The guard on a pending branch is decision D13 (log 25), the stop where the
new window lies outside the register file decision D19 (log 15), the stop at a vector where the platform has placed
nothing the model's choice (log 26), the entry's width decision D28 (log 21), the wrap of the vector's address D8
(log 17). Where requests are accepted is decision D14 (log 25), that the window is tested before the vector log 29. -/
def Obligations.AcceptedInterruptEntersItsHandler : Prop :=
  ∀ (s : State) (number : BitVec 6) (rest : List IrqSample),
    s.irqs = { irq := true, number := number } :: rest →
    s.p = false → s.bt = none → s.status.ie = true → number.toNat < s.status.ipri.toNat →
    let vector := (s.cfg.vecBase + BitVec.ofNat 32 (4 * number.toNat)).toNat
    (∀ d, physReg s.cfg (s.status.cwp - 1#5) 15#5 = some d →
      (populatedRange s.cfg vector 4 = true →
        step s =
          .next
            { s with
              irqs := rest
              regs := s.regs.set d (BitVec.ofNat 32 (s.pc.toNat / 2))
              istatus := s.status
              status := { s.status with cwp := s.status.cwp - 1#5, ie := false, ipri := number }
              k := 0#11
              pc := BitVec.ofNat 33 (2 * (Memory.readWord s.mem vector).toNat) }) ∧
      (populatedRange s.cfg vector 4 = false → step s = .fault .unpopulatedAddress)) ∧
    (s.status.cwp = 0#5 ∨ s.cfg.cwpMax < (s.status.cwp - 1#5).toNat → step s = .fault .windowOutsideFile)

/-! ## Control registers -/

/-- RDCTL of STATUS, ISTATUS and WVALID: their bits in the order of 10_state R56 and R63, zero-extended
(45_window_trap_control R338, R339; the zeros are decisions D21 and D35, log 24). -/
def Obligations.ReadControlRegisterDeliversItsBits : Prop :=
  ∀ (s : State) (a : RegIx) (i : Fin 512), s.phys a = some i →
    let bits : StatusReg → Nat := fun r =>
      2 ^ 15 * r.ie.toNat + 2 ^ 9 * r.ipri.toNat + 2 ^ 4 * r.cwp.toNat + 8 * r.flags.n.toNat + 4 * r.flags.v.toNat +
        2 * r.flags.z.toNat + r.flags.c.toNat
    (s.k = 0#11 → ∃ t, exec (.rdctl a) s = .next t ∧
      s.endsAs { s with regs := s.regs.set i (BitVec.ofNat 32 (bits s.status)) } t) ∧
    (s.k = 1#11 → ∃ t, exec (.rdctl a) s = .next t ∧
      s.endsAs { s with regs := s.regs.set i (BitVec.ofNat 32 (bits s.istatus)) } t) ∧
    (s.k = 2#11 → ∃ t, exec (.rdctl a) s = .next t ∧
      s.endsAs
        { s with
          regs := s.regs.set i (BitVec.ofNat 32 (2 ^ 5 * s.wvalid.hiLimit.toNat + s.wvalid.loLimit.toNat)) } t)

/-- CLR_IE and SET_IE: any WRCTL clears or sets IE and ignores the value (10_state R64, R65); RDCTL of them completes with
an undefined value, here the free value of any count, and changes nothing else but the model's count. That RDCTL clause
is the model's choice (log 7; 93_implementation_defined U1). -/
def Obligations.ClearAndSetInterruptEnable : Prop :=
  ∀ (s : State) (a : RegIx) (i : Fin 512), s.phys a = some i →
    (s.k = 8#11 → ∃ t, exec (.wrctl a) s = .next t ∧
      s.endsAs { s with status := { s.status with ie := false } } t) ∧
    (s.k = 9#11 → ∃ t, exec (.wrctl a) s = .next t ∧
      s.endsAs { s with status := { s.status with ie := true } } t) ∧
    ((s.k = 8#11 ∨ s.k = 9#11) → ∃ t, exec (.rdctl a) s = .next t ∧
      s.endsAs
        { s with regs := s.regs.set i (Config.freeWord s.freeCount), freeCount := s.freeCount + 1 } t)

/-- WRCTL of STATUS, ISTATUS and WVALID: each field from its own bits of x[A]; STATUS only where the next word to be
executed is NOP, WVALID only where it is writable (45_window_trap_control R340 to R342). The NOP check is decision
D23, the bits of x[A] D22, the read-only WVALID D5, its high bits D35 (log 13, log 24), the wrap of `pc` D7 (log 16),
the hypothesis that the CPU has stored nothing into the next word D10 (log 19). The byte order of the next word is
decision D38 (log 22), that looking at it changes nothing D27 (log 20); where the platform has placed nothing is the
model's choice (log 26). -/
def Obligations.WriteControlRegisterSetsItsFields : Prop :=
  ∀ (s : State) (a : RegIx) (i : Fin 512), s.phys a = some i →
    let x := s.regs.get i
    let fields : StatusReg :=
      { ie := x.getLsbD 15, ipri := x.extractLsb' 9 6, cwp := x.extractLsb' 4 5
        flags := { n := x.getLsbD 3, v := x.getLsbD 2, z := x.getLsbD 1, c := x.getLsbD 0 } }
    let next : Addr := s.bt.getD (s.pc + 2#33)
    let word : Half := Memory.readByte s.mem (next.toNat + 1) ++ Memory.readByte s.mem next.toNat
    (s.k = 0#11 → populatedRange s.cfg next.toNat 2 = true → s.storedOver next = false →
      (word = 0x3000#16 → ∃ t, exec (.wrctl a) s = .next t ∧ s.endsAs { s with status := fields } t) ∧
      (word ≠ 0x3000#16 → exec (.wrctl a) s = .fault .wrctlNotFollowedByNop)) ∧
    (s.k = 1#11 → ∃ t, exec (.wrctl a) s = .next t ∧ s.endsAs { s with istatus := fields } t) ∧
    (s.k = 2#11 → ∃ t, exec (.wrctl a) s = .next t ∧
      s.endsAs
        { s with
          wvalid :=
            if s.cfg.wvalidWritable then { hiLimit := x.extractLsb' 5 5, loLimit := x.extractLsb' 0 5 }
            else s.wvalid } t)

/-- RDCTL and WRCTL of %ctl3 to %ctl7 and of %ctl10 to %ctl2047 are faults of two names. The source says nothing of these
accesses; that they fault, under these names, is the model's choice of log 14, which follows the spec's treatment
(93_implementation_defined U3, U4; 10_state R66, R67). -/
def Obligations.OtherControlRegistersFault : Prop :=
  ∀ (s : State) (a : RegIx) (i : Fin 512), s.phys a = some i →
    (3 ≤ s.k.toNat → s.k.toNat ≤ 7 →
      exec (.rdctl a) s = .fault .reservedControlRegister ∧ exec (.wrctl a) s = .fault .reservedControlRegister) ∧
    (10 ≤ s.k.toNat →
      exec (.rdctl a) s = .fault .undefinedControlRegister ∧ exec (.wrctl a) s = .fault .undefinedControlRegister)

/-! ## The whole machine -/

/-- Who writes the flags (10_state R61): an instruction outside the table leaves all four; the logic instructions keep
V and C, the rotates N, V and Z; WRCTL writes them only as STATUS; TRET takes them from ISTATUS; TRAP keeps them and
copies them to ISTATUS. -/
def Obligations.OnlyTheListedInstructionsWriteFlags : Prop :=
  ∀ (i : Instr) (s t : State), exec i s = .next t →
    (writesFlags i = false → t.status.flags = s.status.flags) ∧
    (∀ a bi, (i = .and a bi ∨ i = .andn a bi ∨ i = .or a bi ∨ i = .xor a bi) →
      t.status.flags.v = s.status.flags.v ∧ t.status.flags.c = s.status.flags.c) ∧
    (∀ a, (i = .rlc a ∨ i = .rrc a) →
      t.status.flags.n = s.status.flags.n ∧ t.status.flags.v = s.status.flags.v ∧
        t.status.flags.z = s.status.flags.z) ∧
    (∀ a, i = .wrctl a → s.k ≠ 0#11 → t.status.flags = s.status.flags) ∧
    (∀ a, i = .tret a → t.status.flags = s.istatus.flags) ∧
    (∀ n, i = .trap n → t.istatus.flags = s.status.flags)

/-- What changes IE, IPRI and CWP (10_state R36, R57), what writes ISTATUS (R62) and WVALID (R63, R55): nothing but
the instructions named, and neither the configuration nor a place beyond NREG changes at all (00_scope R7; places
beyond NREG are the model's, log 28). The configuration and the list of samples are fields of the model (log 1,
log 25). -/
def Obligations.OnlyTheListedInstructionsWriteControlState : Prop :=
  ∀ (i : Instr) (s t : State), exec i s = .next t →
    ((∀ n, i ≠ .save n) → i ≠ .restore → (∀ n, i ≠ .trap n) → (∀ a, i ≠ .tret a) → (∀ a, i ≠ .wrctl a) →
      t.status.ie = s.status.ie ∧ t.status.ipri = s.status.ipri ∧ t.status.cwp = s.status.cwp) ∧
    ((∀ n, i ≠ .save n) → i ≠ .restore → (∀ n, i ≠ .trap n) → (∀ a, i ≠ .wrctl a) → t.istatus = s.istatus) ∧
    ((∀ a, i ≠ .wrctl a) → t.wvalid = s.wvalid) ∧
    t.cfg = s.cfg ∧ t.irqs = s.irqs ∧
    ∀ j : Fin 512, s.cfg.nreg.count ≤ j.val → t.regs.get j = s.regs.get j

/-- What the reset event leaves, in every configuration and from every state, the first run's reset state among them:
the values the spec states (10_state R75; WVALID as a word for NREG = 128 and 512 is the spec's own inference from the
two fields), `pc`, the pending target, K and P as its decisions D4 and D6 have them (log 1, log 4), and memory, the
interrupt samples and the configuration untouched (70_reset R421). That the model's own two fields stay is its choice
(log 33). The list of samples is log 25. -/
def Obligations.ResetValues : Prop :=
  ∀ (before s : State), (s = before.resetFrom ∨ s = State.resetWith before.cfg) →
    let c := before.cfg
    let top := c.nreg.count / 16 - 2
    s.status.ie = false ∧ s.status.ipri = 63#6 ∧ s.status.cwp = BitVec.ofNat 5 top ∧
    s.wvalid.loLimit = 1#5 ∧ s.wvalid.hiLimit = BitVec.ofNat 5 top ∧
    s.istatus.toBits = 0#16 ∧
    (c.nreg = .nreg256 → s.wvalid.toBits = 0x01C1#16) ∧
    (c.nreg = .nreg128 → s.wvalid.toBits = 0x00C1#16) ∧
    (c.nreg = .nreg512 → s.wvalid.toBits = 0x03C1#16) ∧
    s.pc.toNat = 2 * c.resetPcHalf.toNat ∧ s.bt = none ∧ s.k = 0#11 ∧ s.p = false ∧ s.cfg = c ∧
    (s = before.resetFrom →
      (∀ a, Memory.readByte s.mem a = Memory.readByte before.mem a) ∧ s.mem = before.mem ∧ s.irqs = before.irqs ∧
        s.written = before.written ∧ s.freeCount = before.freeCount)

/-- The invariant holds in the reset state of every configuration (the canonical forms, the even `pc`, K and P), and
the reset event establishes it in every state whose memory and noted store addresses are in canonical form. K, P and
the pending target at reset are decision D6 of the spec (log 4), empty memory is log 5, and the event is log 33. The
even `pc` is decision D4 (log 1), the noted addresses D10 (log 19). -/
def Obligations.InvariantHoldsAtReset : Prop :=
  (∀ (c : Config), State.Inv (State.resetWith c)) ∧
  ∀ (s : State), Memory.wf s.mem = true → risingAddrs s.written = true → State.Inv s.resetFrom

/-- Every step keeps the invariant: the canonical forms of memory and of the noted store addresses (20_memory R92,
R109), the even `pc` and pending target (10_state R40, R42, R44), K = 0 unless a PFX was just executed (R50), and no
PFX before a delay slot (44_control_flow R322). The noted addresses are decision D10 (log 19), the fault of a PFX in a
delay slot D25 (log 12), the wrap of `pc` D7 (log 16), the doubled vector entry D28 (log 21), the step of an interrupt
D13 and D14 (log 25), the even `pc` the model's inference (log 32). -/
def Obligations.EveryStepKeepsTheInvariant : Prop :=
  ∀ (s t : State), State.Inv s → Sys2Proof.Machine.step s = .next t → State.Inv t

end
end

