-- ==== Sys2Proof/Laws/Decode.lean ====
section
/-! SUPPORT. Reading a field back out of a format: every slice that the decoder takes of a word built by one of the
formats (spec 30_encoding R132). -/

namespace Sys2Proof

/-- The number an append stands for. -/
theorem append_toNat {n m : Nat} (x : BitVec n) (y : BitVec m) : (x ++ y).toNat = x.toNat * 2 ^ m + y.toNat := by
  rw [BitVec.toNat_append, ← Nat.shiftLeft_add_eq_or_of_lt y.isLt, Nat.shiftLeft_eq]

/-- The slices of formatRR. -/
theorem formatRR_slices (op6 : BitVec 6) (bi : BitVec 5) (a : BitVec 5) :
    (formatRR op6 bi a).extractLsb' 10 6 = op6 ∧
      (formatRR op6 bi a).extractLsb' 5 5 = bi ∧
      (formatRR op6 bi a).extractLsb' 0 5 = a ∧
      (formatRR op6 bi a).extractLsb' 13 3 = op6.extractLsb' 3 3 ∧
      (formatRR op6 bi a).extractLsb' 12 4 = op6.extractLsb' 2 4 ∧
      (formatRR op6 bi a).extractLsb' 11 5 = op6.extractLsb' 1 5 := by
  have := op6.isLt
  have := bi.isLt
  have := a.isLt
  refine ⟨?_, ?_, ?_, ?_, ?_, ?_⟩ <;> apply BitVec.eq_of_toNat_eq <;>
    simp only [formatRR, BitVec.extractLsb'_toNat, append_toNat, Nat.shiftRight_eq_div_pow] <;> omega

/-- The slices of formatRPi5. -/
theorem formatRPi5_slices (op4 : BitVec 4) (p : BitVec 2) (imm5 : BitVec 5) (a : BitVec 5) :
    (formatRPi5 op4 p imm5 a).extractLsb' 12 4 = op4 ∧
      (formatRPi5 op4 p imm5 a).extractLsb' 10 2 = p ∧
      (formatRPi5 op4 p imm5 a).extractLsb' 5 5 = imm5 ∧
      (formatRPi5 op4 p imm5 a).extractLsb' 0 5 = a ∧
      (formatRPi5 op4 p imm5 a).extractLsb' 13 3 = op4.extractLsb' 1 3 := by
  have := op4.isLt
  have := p.isLt
  have := imm5.isLt
  have := a.isLt
  refine ⟨?_, ?_, ?_, ?_, ?_⟩ <;> apply BitVec.eq_of_toNat_eq <;>
    simp only [formatRPi5, BitVec.extractLsb'_toNat, append_toNat, Nat.shiftRight_eq_div_pow] <;> omega

/-- The slices of formatRi8. -/
theorem formatRi8_slices (op3 : BitVec 3) (imm8 : BitVec 8) (a : BitVec 5) :
    (formatRi8 op3 imm8 a).extractLsb' 13 3 = op3 ∧
      (formatRi8 op3 imm8 a).extractLsb' 5 8 = imm8 ∧
      (formatRi8 op3 imm8 a).extractLsb' 0 5 = a := by
  have := op3.isLt
  have := imm8.isLt
  have := a.isLt
  refine ⟨?_, ?_, ?_⟩ <;> apply BitVec.eq_of_toNat_eq <;>
    simp only [formatRi8, BitVec.extractLsb'_toNat, append_toNat, Nat.shiftRight_eq_div_pow] <;> omega

/-- The slices of formatI9. -/
theorem formatI9_slices (op6 : BitVec 6) (imm9 : BitVec 9) :
    (formatI9 op6 imm9).extractLsb' 10 6 = op6 ∧
      (formatI9 op6 imm9).extractLsb' 1 9 = imm9 ∧
      (formatI9 op6 imm9).extractLsb' 0 1 = 0#1 ∧
      (formatI9 op6 imm9).extractLsb' 13 3 = op6.extractLsb' 3 3 ∧
      (formatI9 op6 imm9).extractLsb' 12 4 = op6.extractLsb' 2 4 ∧
      (formatI9 op6 imm9).extractLsb' 11 5 = op6.extractLsb' 1 5 := by
  have := op6.isLt
  have := imm9.isLt
  refine ⟨?_, ?_, ?_, ?_, ?_, ?_⟩ <;> apply BitVec.eq_of_toNat_eq <;>
    simp only [formatI9, BitVec.extractLsb'_toNat, append_toNat, Nat.shiftRight_eq_div_pow, BitVec.toNat_ofNat] <;> omega

/-- The slices of formatI10. -/
theorem formatI10_slices (op6 : BitVec 6) (imm10 : BitVec 10) :
    (formatI10 op6 imm10).extractLsb' 10 6 = op6 ∧
      (formatI10 op6 imm10).extractLsb' 0 10 = imm10 ∧
      (formatI10 op6 imm10).extractLsb' 13 3 = op6.extractLsb' 3 3 ∧
      (formatI10 op6 imm10).extractLsb' 12 4 = op6.extractLsb' 2 4 ∧
      (formatI10 op6 imm10).extractLsb' 11 5 = op6.extractLsb' 1 5 := by
  have := op6.isLt
  have := imm10.isLt
  refine ⟨?_, ?_, ?_, ?_, ?_⟩ <;> apply BitVec.eq_of_toNat_eq <;>
    simp only [formatI10, BitVec.extractLsb'_toNat, append_toNat, Nat.shiftRight_eq_div_pow] <;> omega

/-- The slices of formatI11. -/
theorem formatI11_slices (op5 : BitVec 5) (imm11 : BitVec 11) :
    (formatI11 op5 imm11).extractLsb' 11 5 = op5 ∧
      (formatI11 op5 imm11).extractLsb' 0 11 = imm11 ∧
      (formatI11 op5 imm11).extractLsb' 13 3 = op5.extractLsb' 2 3 ∧
      (formatI11 op5 imm11).extractLsb' 12 4 = op5.extractLsb' 1 4 := by
  have := op5.isLt
  have := imm11.isLt
  refine ⟨?_, ?_, ?_, ?_⟩ <;> apply BitVec.eq_of_toNat_eq <;>
    simp only [formatI11, BitVec.extractLsb'_toNat, append_toNat, Nat.shiftRight_eq_div_pow] <;> omega

/-- The slices of formatRi1u. -/
theorem formatRi1u_slices (op3u : BitVec 3) (imm1 : BitVec 1) (a : BitVec 5) :
    (formatRi1u op3u imm1 a).extractLsb' 10 6 = 0b011101#6 ∧
      (formatRi1u op3u imm1 a).extractLsb' 7 3 = op3u ∧
      (formatRi1u op3u imm1 a).extractLsb' 6 1 = imm1 ∧
      (formatRi1u op3u imm1 a).extractLsb' 5 1 = 0#1 ∧
      (formatRi1u op3u imm1 a).extractLsb' 0 5 = a ∧
      (formatRi1u op3u imm1 a).extractLsb' 13 3 = 3#3 ∧
      (formatRi1u op3u imm1 a).extractLsb' 12 4 = 7#4 ∧
      (formatRi1u op3u imm1 a).extractLsb' 11 5 = 14#5 := by
  have := op3u.isLt
  have := imm1.isLt
  have := a.isLt
  refine ⟨?_, ?_, ?_, ?_, ?_, ?_, ?_, ?_⟩ <;> apply BitVec.eq_of_toNat_eq <;>
    simp only [formatRi1u, BitVec.extractLsb'_toNat, append_toNat, Nat.shiftRight_eq_div_pow, BitVec.toNat_ofNat] <;> omega

/-- The slices of formatRi2u. -/
theorem formatRi2u_slices (op3u : BitVec 3) (imm2 : BitVec 2) (a : BitVec 5) :
    (formatRi2u op3u imm2 a).extractLsb' 10 6 = 0b011101#6 ∧
      (formatRi2u op3u imm2 a).extractLsb' 7 3 = op3u ∧
      (formatRi2u op3u imm2 a).extractLsb' 5 2 = imm2 ∧
      (formatRi2u op3u imm2 a).extractLsb' 0 5 = a ∧
      (formatRi2u op3u imm2 a).extractLsb' 13 3 = 3#3 ∧
      (formatRi2u op3u imm2 a).extractLsb' 12 4 = 7#4 ∧
      (formatRi2u op3u imm2 a).extractLsb' 11 5 = 14#5 := by
  have := op3u.isLt
  have := imm2.isLt
  have := a.isLt
  refine ⟨?_, ?_, ?_, ?_, ?_, ?_, ?_⟩ <;> apply BitVec.eq_of_toNat_eq <;>
    simp only [formatRi2u, BitVec.extractLsb'_toNat, append_toNat, Nat.shiftRight_eq_div_pow, BitVec.toNat_ofNat] <;> omega

/-- The slices of formatI8v. -/
theorem formatI8v_slices (op2v : BitVec 2) (imm8 : BitVec 8) :
    (formatI8v op2v imm8).extractLsb' 10 6 = 0b011110#6 ∧
      (formatI8v op2v imm8).extractLsb' 8 2 = op2v ∧
      (formatI8v op2v imm8).extractLsb' 0 8 = imm8 ∧
      (formatI8v op2v imm8).extractLsb' 13 3 = 3#3 ∧
      (formatI8v op2v imm8).extractLsb' 12 4 = 7#4 ∧
      (formatI8v op2v imm8).extractLsb' 11 5 = 15#5 := by
  have := op2v.isLt
  have := imm8.isLt
  refine ⟨?_, ?_, ?_, ?_, ?_, ?_⟩ <;> apply BitVec.eq_of_toNat_eq <;>
    simp only [formatI8v, BitVec.extractLsb'_toNat, append_toNat, Nat.shiftRight_eq_div_pow, BitVec.toNat_ofNat] <;> omega

/-- The slices of formatI6v. -/
theorem formatI6v_slices (op2v : BitVec 2) (imm6 : BitVec 6) :
    (formatI6v op2v imm6).extractLsb' 10 6 = 0b011110#6 ∧
      (formatI6v op2v imm6).extractLsb' 8 2 = op2v ∧
      (formatI6v op2v imm6).extractLsb' 6 2 = 0#2 ∧
      (formatI6v op2v imm6).extractLsb' 0 6 = imm6 ∧
      (formatI6v op2v imm6).extractLsb' 13 3 = 3#3 ∧
      (formatI6v op2v imm6).extractLsb' 12 4 = 7#4 ∧
      (formatI6v op2v imm6).extractLsb' 11 5 = 15#5 := by
  have := op2v.isLt
  have := imm6.isLt
  refine ⟨?_, ?_, ?_, ?_, ?_, ?_, ?_⟩ <;> apply BitVec.eq_of_toNat_eq <;>
    simp only [formatI6v, BitVec.extractLsb'_toNat, append_toNat, Nat.shiftRight_eq_div_pow, BitVec.toNat_ofNat] <;> omega

/-- The slices of formatRw. -/
theorem formatRw_slices (op5w : BitVec 5) (a : BitVec 5) :
    (formatRw op5w a).extractLsb' 10 6 = 0b011111#6 ∧
      (formatRw op5w a).extractLsb' 5 5 = op5w ∧
      (formatRw op5w a).extractLsb' 0 5 = a ∧
      (formatRw op5w a).extractLsb' 13 3 = 3#3 ∧
      (formatRw op5w a).extractLsb' 12 4 = 7#4 ∧
      (formatRw op5w a).extractLsb' 11 5 = 15#5 := by
  have := op5w.isLt
  have := a.isLt
  refine ⟨?_, ?_, ?_, ?_, ?_, ?_⟩ <;> apply BitVec.eq_of_toNat_eq <;>
    simp only [formatRw, BitVec.extractLsb'_toNat, append_toNat, Nat.shiftRight_eq_div_pow, BitVec.toNat_ofNat] <;> omega

/-- The slices of formatI4w. -/
theorem formatI4w_slices (op5w : BitVec 5) (imm4 : BitVec 4) :
    (formatI4w op5w imm4).extractLsb' 10 6 = 0b011111#6 ∧
      (formatI4w op5w imm4).extractLsb' 5 5 = op5w ∧
      (formatI4w op5w imm4).extractLsb' 4 1 = 0#1 ∧
      (formatI4w op5w imm4).extractLsb' 0 4 = imm4 ∧
      (formatI4w op5w imm4).extractLsb' 13 3 = 3#3 ∧
      (formatI4w op5w imm4).extractLsb' 12 4 = 7#4 ∧
      (formatI4w op5w imm4).extractLsb' 11 5 = 15#5 := by
  have := op5w.isLt
  have := imm4.isLt
  refine ⟨?_, ?_, ?_, ?_, ?_, ?_, ?_⟩ <;> apply BitVec.eq_of_toNat_eq <;>
    simp only [formatI4w, BitVec.extractLsb'_toNat, append_toNat, Nat.shiftRight_eq_div_pow, BitVec.toNat_ofNat] <;> omega

/-- The slices of formatW. -/
theorem formatW_slices (op5w : BitVec 5) :
    (formatW op5w).extractLsb' 10 6 = 0b011111#6 ∧
      (formatW op5w).extractLsb' 5 5 = op5w ∧
      (formatW op5w).extractLsb' 0 5 = 0#5 ∧
      (formatW op5w).extractLsb' 13 3 = 3#3 ∧
      (formatW op5w).extractLsb' 12 4 = 7#4 ∧
      (formatW op5w).extractLsb' 11 5 = 15#5 := by
  have := op5w.isLt
  refine ⟨?_, ?_, ?_, ?_, ?_, ?_⟩ <;> apply BitVec.eq_of_toNat_eq <;>
    simp only [formatW, BitVec.extractLsb'_toNat, append_toNat, Nat.shiftRight_eq_div_pow, BitVec.toNat_ofNat] <;> omega

end Sys2Proof
end

