-- ==== Sys2Proof/Laws/State.lean ====
section
/-! SUPPORT. One lemma per field per update of the state, true by rfl, so that no proof unfolds an update. -/

namespace Sys2Proof.Machine

variable (s : State)

/-! ## setPhys -/

@[simp] theorem State.setPhys_cfg (i : Fin 512) (v : Word) : (s.setPhys i v).cfg = s.cfg := rfl
@[simp] theorem State.setPhys_regs (i : Fin 512) (v : Word) : (s.setPhys i v).regs = s.regs.set i.val v i.isLt := rfl
@[simp] theorem State.setPhys_pc (i : Fin 512) (v : Word) : (s.setPhys i v).pc = s.pc := rfl
@[simp] theorem State.setPhys_bt (i : Fin 512) (v : Word) : (s.setPhys i v).bt = s.bt := rfl
@[simp] theorem State.setPhys_k (i : Fin 512) (v : Word) : (s.setPhys i v).k = s.k := rfl
@[simp] theorem State.setPhys_p (i : Fin 512) (v : Word) : (s.setPhys i v).p = s.p := rfl
@[simp] theorem State.setPhys_status (i : Fin 512) (v : Word) : (s.setPhys i v).status = s.status := rfl
@[simp] theorem State.setPhys_istatus (i : Fin 512) (v : Word) : (s.setPhys i v).istatus = s.istatus := rfl
@[simp] theorem State.setPhys_wvalid (i : Fin 512) (v : Word) : (s.setPhys i v).wvalid = s.wvalid := rfl
@[simp] theorem State.setPhys_mem (i : Fin 512) (v : Word) : (s.setPhys i v).mem = s.mem := rfl
@[simp] theorem State.setPhys_written (i : Fin 512) (v : Word) : (s.setPhys i v).written = s.written := rfl
@[simp] theorem State.setPhys_irqs (i : Fin 512) (v : Word) : (s.setPhys i v).irqs = s.irqs := rfl
@[simp] theorem State.setPhys_freeCount (i : Fin 512) (v : Word) : (s.setPhys i v).freeCount = s.freeCount := rfl

/-! ## setFlags -/

@[simp] theorem State.setFlags_cfg (f : Flags) : (s.setFlags f).cfg = s.cfg := rfl
@[simp] theorem State.setFlags_regs (f : Flags) : (s.setFlags f).regs = s.regs := rfl
@[simp] theorem State.setFlags_pc (f : Flags) : (s.setFlags f).pc = s.pc := rfl
@[simp] theorem State.setFlags_bt (f : Flags) : (s.setFlags f).bt = s.bt := rfl
@[simp] theorem State.setFlags_k (f : Flags) : (s.setFlags f).k = s.k := rfl
@[simp] theorem State.setFlags_p (f : Flags) : (s.setFlags f).p = s.p := rfl
@[simp] theorem State.setFlags_status (f : Flags) : (s.setFlags f).status = { s.status with flags := f } := rfl
@[simp] theorem State.setFlags_istatus (f : Flags) : (s.setFlags f).istatus = s.istatus := rfl
@[simp] theorem State.setFlags_wvalid (f : Flags) : (s.setFlags f).wvalid = s.wvalid := rfl
@[simp] theorem State.setFlags_mem (f : Flags) : (s.setFlags f).mem = s.mem := rfl
@[simp] theorem State.setFlags_written (f : Flags) : (s.setFlags f).written = s.written := rfl
@[simp] theorem State.setFlags_irqs (f : Flags) : (s.setFlags f).irqs = s.irqs := rfl
@[simp] theorem State.setFlags_freeCount (f : Flags) : (s.setFlags f).freeCount = s.freeCount := rfl

/-! ## setCwp -/

@[simp] theorem State.setCwp_cfg (w : BitVec 5) : (s.setCwp w).cfg = s.cfg := rfl
@[simp] theorem State.setCwp_regs (w : BitVec 5) : (s.setCwp w).regs = s.regs := rfl
@[simp] theorem State.setCwp_pc (w : BitVec 5) : (s.setCwp w).pc = s.pc := rfl
@[simp] theorem State.setCwp_bt (w : BitVec 5) : (s.setCwp w).bt = s.bt := rfl
@[simp] theorem State.setCwp_k (w : BitVec 5) : (s.setCwp w).k = s.k := rfl
@[simp] theorem State.setCwp_p (w : BitVec 5) : (s.setCwp w).p = s.p := rfl
@[simp] theorem State.setCwp_status (w : BitVec 5) : (s.setCwp w).status = { s.status with cwp := w } := rfl
@[simp] theorem State.setCwp_istatus (w : BitVec 5) : (s.setCwp w).istatus = s.istatus := rfl
@[simp] theorem State.setCwp_wvalid (w : BitVec 5) : (s.setCwp w).wvalid = s.wvalid := rfl
@[simp] theorem State.setCwp_mem (w : BitVec 5) : (s.setCwp w).mem = s.mem := rfl
@[simp] theorem State.setCwp_written (w : BitVec 5) : (s.setCwp w).written = s.written := rfl
@[simp] theorem State.setCwp_irqs (w : BitVec 5) : (s.setCwp w).irqs = s.irqs := rfl
@[simp] theorem State.setCwp_freeCount (w : BitVec 5) : (s.setCwp w).freeCount = s.freeCount := rfl

/-! ## clearPfx -/

@[simp] theorem State.clearPfx_cfg : (s.clearPfx).cfg = s.cfg := rfl
@[simp] theorem State.clearPfx_regs : (s.clearPfx).regs = s.regs := rfl
@[simp] theorem State.clearPfx_pc : (s.clearPfx).pc = s.pc := rfl
@[simp] theorem State.clearPfx_bt : (s.clearPfx).bt = s.bt := rfl
@[simp] theorem State.clearPfx_k : (s.clearPfx).k = 0#11 := rfl
@[simp] theorem State.clearPfx_p : (s.clearPfx).p = false := rfl
@[simp] theorem State.clearPfx_status : (s.clearPfx).status = s.status := rfl
@[simp] theorem State.clearPfx_istatus : (s.clearPfx).istatus = s.istatus := rfl
@[simp] theorem State.clearPfx_wvalid : (s.clearPfx).wvalid = s.wvalid := rfl
@[simp] theorem State.clearPfx_mem : (s.clearPfx).mem = s.mem := rfl
@[simp] theorem State.clearPfx_written : (s.clearPfx).written = s.written := rfl
@[simp] theorem State.clearPfx_irqs : (s.clearPfx).irqs = s.irqs := rfl
@[simp] theorem State.clearPfx_freeCount : (s.clearPfx).freeCount = s.freeCount := rfl

/-! ## setPc -/

@[simp] theorem State.setPc_cfg (a : Addr) : (s.setPc a).cfg = s.cfg := rfl
@[simp] theorem State.setPc_regs (a : Addr) : (s.setPc a).regs = s.regs := rfl
@[simp] theorem State.setPc_pc (a : Addr) : (s.setPc a).pc = a := rfl
@[simp] theorem State.setPc_bt (a : Addr) : (s.setPc a).bt = s.bt := rfl
@[simp] theorem State.setPc_k (a : Addr) : (s.setPc a).k = s.k := rfl
@[simp] theorem State.setPc_p (a : Addr) : (s.setPc a).p = s.p := rfl
@[simp] theorem State.setPc_status (a : Addr) : (s.setPc a).status = s.status := rfl
@[simp] theorem State.setPc_istatus (a : Addr) : (s.setPc a).istatus = s.istatus := rfl
@[simp] theorem State.setPc_wvalid (a : Addr) : (s.setPc a).wvalid = s.wvalid := rfl
@[simp] theorem State.setPc_mem (a : Addr) : (s.setPc a).mem = s.mem := rfl
@[simp] theorem State.setPc_written (a : Addr) : (s.setPc a).written = s.written := rfl
@[simp] theorem State.setPc_irqs (a : Addr) : (s.setPc a).irqs = s.irqs := rfl
@[simp] theorem State.setPc_freeCount (a : Addr) : (s.setPc a).freeCount = s.freeCount := rfl

/-! ## finish -/

@[simp] theorem State.finish_cfg : (s.finish).cfg = s.cfg := rfl
@[simp] theorem State.finish_regs : (s.finish).regs = s.regs := rfl
@[simp] theorem State.finish_pc : (s.finish).pc = s.nextPc := rfl
@[simp] theorem State.finish_bt : (s.finish).bt = none := rfl
@[simp] theorem State.finish_k : (s.finish).k = 0#11 := rfl
@[simp] theorem State.finish_p : (s.finish).p = false := rfl
@[simp] theorem State.finish_status : (s.finish).status = s.status := rfl
@[simp] theorem State.finish_istatus : (s.finish).istatus = s.istatus := rfl
@[simp] theorem State.finish_wvalid : (s.finish).wvalid = s.wvalid := rfl
@[simp] theorem State.finish_mem : (s.finish).mem = s.mem := rfl
@[simp] theorem State.finish_written : (s.finish).written = s.written := rfl
@[simp] theorem State.finish_irqs : (s.finish).irqs = s.irqs := rfl
@[simp] theorem State.finish_freeCount : (s.finish).freeCount = s.freeCount := rfl

/-! ## store -/

@[simp] theorem State.store_cfg (a : Nat) (bs : List Byte) : (s.store a bs).cfg = s.cfg := rfl
@[simp] theorem State.store_regs (a : Nat) (bs : List Byte) : (s.store a bs).regs = s.regs := rfl
@[simp] theorem State.store_pc (a : Nat) (bs : List Byte) : (s.store a bs).pc = s.pc := rfl
@[simp] theorem State.store_bt (a : Nat) (bs : List Byte) : (s.store a bs).bt = s.bt := rfl
@[simp] theorem State.store_k (a : Nat) (bs : List Byte) : (s.store a bs).k = s.k := rfl
@[simp] theorem State.store_p (a : Nat) (bs : List Byte) : (s.store a bs).p = s.p := rfl
@[simp] theorem State.store_status (a : Nat) (bs : List Byte) : (s.store a bs).status = s.status := rfl
@[simp] theorem State.store_istatus (a : Nat) (bs : List Byte) : (s.store a bs).istatus = s.istatus := rfl
@[simp] theorem State.store_wvalid (a : Nat) (bs : List Byte) : (s.store a bs).wvalid = s.wvalid := rfl
@[simp] theorem State.store_mem (a : Nat) (bs : List Byte) : (s.store a bs).mem = Memory.writeBytes s.mem a bs := rfl
@[simp] theorem State.store_written (a : Nat) (bs : List Byte) : (s.store a bs).written = insertRange a bs.length s.written := rfl
@[simp] theorem State.store_irqs (a : Nat) (bs : List Byte) : (s.store a bs).irqs = s.irqs := rfl
@[simp] theorem State.store_freeCount (a : Nat) (bs : List Byte) : (s.store a bs).freeCount = s.freeCount := rfl

/-! ## enterStatus -/

@[simp] theorem State.enterStatus_cfg (n : BitVec 6) (dec : Bool) : (s.enterStatus n dec).cfg = s.cfg := rfl
@[simp] theorem State.enterStatus_regs (n : BitVec 6) (dec : Bool) : (s.enterStatus n dec).regs = s.regs := rfl
@[simp] theorem State.enterStatus_pc (n : BitVec 6) (dec : Bool) : (s.enterStatus n dec).pc = s.pc := rfl
@[simp] theorem State.enterStatus_bt (n : BitVec 6) (dec : Bool) : (s.enterStatus n dec).bt = s.bt := rfl
@[simp] theorem State.enterStatus_k (n : BitVec 6) (dec : Bool) : (s.enterStatus n dec).k = s.k := rfl
@[simp] theorem State.enterStatus_p (n : BitVec 6) (dec : Bool) : (s.enterStatus n dec).p = s.p := rfl
@[simp] theorem State.enterStatus_status (n : BitVec 6) (dec : Bool) : (s.enterStatus n dec).status = 
      { s.status with cwp := if dec then s.status.cwp - 1#5 else s.status.cwp, ie := false, ipri := n } := rfl
@[simp] theorem State.enterStatus_istatus (n : BitVec 6) (dec : Bool) : (s.enterStatus n dec).istatus = s.status := rfl
@[simp] theorem State.enterStatus_wvalid (n : BitVec 6) (dec : Bool) : (s.enterStatus n dec).wvalid = s.wvalid := rfl
@[simp] theorem State.enterStatus_mem (n : BitVec 6) (dec : Bool) : (s.enterStatus n dec).mem = s.mem := rfl
@[simp] theorem State.enterStatus_written (n : BitVec 6) (dec : Bool) : (s.enterStatus n dec).written = s.written := rfl
@[simp] theorem State.enterStatus_irqs (n : BitVec 6) (dec : Bool) : (s.enterStatus n dec).irqs = s.irqs := rfl
@[simp] theorem State.enterStatus_freeCount (n : BitVec 6) (dec : Bool) : (s.enterStatus n dec).freeCount = s.freeCount := rfl

/-! ## returnTo -/

@[simp] theorem State.returnTo_cfg (a : Addr) : (s.returnTo a).cfg = s.cfg := rfl
@[simp] theorem State.returnTo_regs (a : Addr) : (s.returnTo a).regs = s.regs := rfl
@[simp] theorem State.returnTo_pc (a : Addr) : (s.returnTo a).pc = a := rfl
@[simp] theorem State.returnTo_bt (a : Addr) : (s.returnTo a).bt = s.bt := rfl
@[simp] theorem State.returnTo_k (a : Addr) : (s.returnTo a).k = 0#11 := rfl
@[simp] theorem State.returnTo_p (a : Addr) : (s.returnTo a).p = false := rfl
@[simp] theorem State.returnTo_status (a : Addr) : (s.returnTo a).status = s.istatus := rfl
@[simp] theorem State.returnTo_istatus (a : Addr) : (s.returnTo a).istatus = s.istatus := rfl
@[simp] theorem State.returnTo_wvalid (a : Addr) : (s.returnTo a).wvalid = s.wvalid := rfl
@[simp] theorem State.returnTo_mem (a : Addr) : (s.returnTo a).mem = s.mem := rfl
@[simp] theorem State.returnTo_written (a : Addr) : (s.returnTo a).written = s.written := rfl
@[simp] theorem State.returnTo_irqs (a : Addr) : (s.returnTo a).irqs = s.irqs := rfl
@[simp] theorem State.returnTo_freeCount (a : Addr) : (s.returnTo a).freeCount = s.freeCount := rfl

/-! ## branchTo -/

@[simp] theorem State.branchTo_cfg (a : Addr) : (s.branchTo a).cfg = s.cfg := rfl
@[simp] theorem State.branchTo_regs (a : Addr) : (s.branchTo a).regs = s.regs := rfl
@[simp] theorem State.branchTo_pc (a : Addr) : (s.branchTo a).pc = s.pc + 2#33 := rfl
@[simp] theorem State.branchTo_bt (a : Addr) : (s.branchTo a).bt = some a := rfl
@[simp] theorem State.branchTo_k (a : Addr) : (s.branchTo a).k = 0#11 := rfl
@[simp] theorem State.branchTo_p (a : Addr) : (s.branchTo a).p = false := rfl
@[simp] theorem State.branchTo_status (a : Addr) : (s.branchTo a).status = s.status := rfl
@[simp] theorem State.branchTo_istatus (a : Addr) : (s.branchTo a).istatus = s.istatus := rfl
@[simp] theorem State.branchTo_wvalid (a : Addr) : (s.branchTo a).wvalid = s.wvalid := rfl
@[simp] theorem State.branchTo_mem (a : Addr) : (s.branchTo a).mem = s.mem := rfl
@[simp] theorem State.branchTo_written (a : Addr) : (s.branchTo a).written = s.written := rfl
@[simp] theorem State.branchTo_irqs (a : Addr) : (s.branchTo a).irqs = s.irqs := rfl
@[simp] theorem State.branchTo_freeCount (a : Addr) : (s.branchTo a).freeCount = s.freeCount := rfl

/-! ## afterSample -/

@[simp] theorem State.afterSample_cfg : (s.afterSample).cfg = s.cfg := rfl
@[simp] theorem State.afterSample_regs : (s.afterSample).regs = s.regs := rfl
@[simp] theorem State.afterSample_pc : (s.afterSample).pc = s.pc := rfl
@[simp] theorem State.afterSample_bt : (s.afterSample).bt = s.bt := rfl
@[simp] theorem State.afterSample_k : (s.afterSample).k = s.k := rfl
@[simp] theorem State.afterSample_p : (s.afterSample).p = s.p := rfl
@[simp] theorem State.afterSample_status : (s.afterSample).status = s.status := rfl
@[simp] theorem State.afterSample_istatus : (s.afterSample).istatus = s.istatus := rfl
@[simp] theorem State.afterSample_wvalid : (s.afterSample).wvalid = s.wvalid := rfl
@[simp] theorem State.afterSample_mem : (s.afterSample).mem = s.mem := rfl
@[simp] theorem State.afterSample_written : (s.afterSample).written = s.written := rfl
@[simp] theorem State.afterSample_irqs : (s.afterSample).irqs = s.irqs.tail := rfl
@[simp] theorem State.afterSample_freeCount : (s.afterSample).freeCount = s.freeCount := rfl

/-! ## resetFrom -/

@[simp] theorem State.resetFrom_cfg : s.resetFrom.cfg = s.cfg := rfl
@[simp] theorem State.resetFrom_regs : s.resetFrom.regs = Vector.replicate 512 0#32 := rfl
@[simp] theorem State.resetFrom_pc : s.resetFrom.pc = s.cfg.resetPc := rfl
@[simp] theorem State.resetFrom_bt : s.resetFrom.bt = none := rfl
@[simp] theorem State.resetFrom_k : s.resetFrom.k = 0#11 := rfl
@[simp] theorem State.resetFrom_p : s.resetFrom.p = false := rfl
@[simp] theorem State.resetFrom_status : s.resetFrom.status = (State.resetWith s.cfg).status := rfl
@[simp] theorem State.resetFrom_istatus : s.resetFrom.istatus = (State.resetWith s.cfg).istatus := rfl
@[simp] theorem State.resetFrom_wvalid : s.resetFrom.wvalid = (State.resetWith s.cfg).wvalid := rfl
@[simp] theorem State.resetFrom_mem : s.resetFrom.mem = s.mem := rfl
@[simp] theorem State.resetFrom_written : s.resetFrom.written = s.written := rfl
@[simp] theorem State.resetFrom_irqs : s.resetFrom.irqs = s.irqs := rfl
@[simp] theorem State.resetFrom_freeCount : s.resetFrom.freeCount = s.freeCount := rfl

/-- The reset state of a configuration is that of the reset event in it. -/
theorem State.resetFrom_resetWith (c : Config) : (State.resetWith c).resetFrom = State.resetWith c := rfl

/-! ## Derived readings -/

@[simp] theorem State.setFlags_phys (f : Flags) (r : RegIx) : (s.setFlags f).phys r = s.phys r := rfl
@[simp] theorem State.setPhys_phys (i : Fin 512) (v : Word) (r : RegIx) : (s.setPhys i v).phys r = s.phys r := rfl
@[simp] theorem State.finish_phys (r : RegIx) : s.finish.phys r = s.phys r := rfl
@[simp] theorem State.store_phys (a : Nat) (bs : List Byte) (r : RegIx) : (s.store a bs).phys r = s.phys r := rfl
@[simp] theorem State.setFlags_nextPc (f : Flags) : (s.setFlags f).nextPc = s.nextPc := rfl
@[simp] theorem State.setPhys_nextPc (i : Fin 512) (v : Word) : (s.setPhys i v).nextPc = s.nextPc := rfl
@[simp] theorem State.setCwp_nextPc (w : BitVec 5) : (s.setCwp w).nextPc = s.nextPc := rfl
@[simp] theorem State.store_nextPc (a : Nat) (bs : List Byte) : (s.store a bs).nextPc = s.nextPc := rfl

/-- What a place of the register file holds after a write: the value at the place written, what it held
elsewhere. -/
theorem State.setPhys_get (i j : Fin 512) (v : Word) :
    (s.setPhys i v).regs.get j = if i = j then v else s.regs.get j := by
  show (s.regs.set i.val v i.isLt)[j.val] = _
  rw [Vector.getElem_set]
  simp only [Fin.ext_iff]
  rfl

@[simp] theorem State.setPhys_get_self (i : Fin 512) (v : Word) : (s.setPhys i v).regs.get i = v := by
  rw [State.setPhys_get, if_pos rfl]

theorem State.setPhys_get_of_ne (i j : Fin 512) (v : Word) (h : i ≠ j) :
    (s.setPhys i v).regs.get j = s.regs.get j := by
  rw [State.setPhys_get, if_neg h]

end Sys2Proof.Machine
end

