-- ==== Sys2Proof/Laws/Ops.lean ====
section
/-! SUPPORT. For each shared operation, one lemma that says everything it can do when it answers a value,
and the lemmas that say when it does. -/

namespace Sys2Proof.Machine

/-! ## Sequencing -/

@[simp] theorem andThen_next {α β : Type} (x : α) (f : α → Result β) : andThen (.next x) f = f x := rfl

@[simp] theorem andThen_fault {α β : Type} (e : Fault) (f : α → Result β) : andThen (.fault e) f = .fault e := rfl

@[simp] theorem andThen_refused {α β : Type} (e : Refusal) (f : α → Result β) :
    andThen (.refused e) f = .refused e := rfl

theorem andThen_eq_next {α β : Type} {r : Result α} {f : α → Result β} {y : β} :
    andThen r f = .next y ↔ ∃ x, r = .next x ∧ f x = .next y := by
  cases r <;> simp [andThen]

/-! ## Registers -/

theorem physReg_global {c : Config} {w : BitVec 5} {r : RegIx} (h : r.toNat < 8) :
    physReg c w r = some ⟨r.toNat, by omega⟩ := by
  simp [physReg, h]

theorem physReg_windowed {c : Config} {w : BitVec 5} {r : RegIx} (h : 8 ≤ r.toNat) (hw : w.toNat ≤ c.cwpMax) :
    physReg c w r = some ⟨16 * w.toNat + r.toNat, by have := cwpMax_le c; omega⟩ := by
  simp [physReg, Nat.not_lt.mpr h, hw]

theorem physReg_outside {c : Config} {w : BitVec 5} {r : RegIx} (h : 8 ≤ r.toNat) (hw : c.cwpMax < w.toNat) :
    physReg c w r = none := by
  simp [physReg, Nat.not_lt.mpr h, Nat.not_le.mpr hw]

/-- Everything the place of a register can be. -/
theorem physReg_cases {c : Config} {w : BitVec 5} {r : RegIx} {i : Fin 512} (h : physReg c w r = some i) :
    (r.toNat < 8 ∧ i.val = r.toNat) ∨
      (8 ≤ r.toNat ∧ w.toNat ≤ c.cwpMax ∧ i.val = 16 * w.toNat + r.toNat) := by
  unfold physReg at h
  split at h
  · next hr => exact .inl ⟨hr, by rw [← Option.some.inj h]⟩
  · next hr =>
    split at h
    · next hw => exact .inr ⟨by omega, hw, by rw [← Option.some.inj h]⟩
    · cases h

/-- A register of a window inside the file is one of the `NREG` registers (R33). -/
theorem physReg_lt_count {c : Config} {w : BitVec 5} {r : RegIx} {i : Fin 512} (h : physReg c w r = some i) :
    i.val < c.nreg.count := by
  have hr := r.isLt
  rcases physReg_cases h with ⟨h1, h2⟩ | ⟨h1, h2, h3⟩
  · rw [h2]
    cases c.nreg <;> simp [RegFileSize.count] <;> omega
  · rw [h3]
    unfold Config.cwpMax at h2
    cases hn : c.nreg <;> simp [hn, RegFileSize.count] at h2 ⊢ <;> omega

theorem readReg_of_phys {s : State} {r : RegIx} {i : Fin 512} (h : s.phys r = some i) :
    readReg s r = .next (s.regs.get i) := by
  simp [readReg, h]

theorem readReg_of_none {s : State} {r : RegIx} (h : s.phys r = none) :
    readReg s r = .fault .windowOutsideFile := by
  simp [readReg, h]

theorem readReg_eq_next {s : State} {r : RegIx} {v : Word} :
    readReg s r = .next v ↔ ∃ i, s.phys r = some i ∧ v = s.regs.get i := by
  unfold readReg
  split
  · next i h => simp [h, eq_comm]
  · next h => simp [h]

theorem writeReg_of_phys {s : State} {r : RegIx} {i : Fin 512} (v : Word) (h : s.phys r = some i) :
    writeReg s r v = .next (s.setPhys i v) := by
  simp [writeReg, h]

theorem writeReg_of_none {s : State} {r : RegIx} (v : Word) (h : s.phys r = none) :
    writeReg s r v = .fault .windowOutsideFile := by
  simp [writeReg, h]

theorem writeReg_eq_next {s t : State} {r : RegIx} {v : Word} :
    writeReg s r v = .next t ↔ ∃ i, s.phys r = some i ∧ t = s.setPhys i v := by
  unfold writeReg
  split
  · next i h => simp [h, eq_comm]
  · next h => simp [h]

/-! ## Memory and fetch -/

theorem memReadWord_eq_next {s : State} {a v : Word} :
    memReadWord s a = .next v ↔ populatedRange s.cfg a.toNat 4 = true ∧ v = Memory.readWord s.mem a.toNat := by
  unfold memReadWord
  split
  · next h => simp [h, eq_comm]
  · next h => simp [h]

theorem memWrite_eq_next {s t : State} {a : Word} {bs : List Byte} :
    memWrite s a bs = .next t ↔
      populatedRange s.cfg a.toNat bs.length = true ∧ t = s.store a.toNat bs := by
  unfold memWrite
  split
  · next h => simp [h, eq_comm]
  · next h => simp [h]

theorem fetchHalf_eq_next {s : State} {a : Addr} {w : Half} :
    fetchHalf s a = .next w ↔
      populatedRange s.cfg a.toNat 2 = true ∧ s.storedOver a = false ∧ w = Memory.readHalf s.mem a.toNat := by
  unfold fetchHalf
  split
  · next h =>
    split
    · next hs => simp [hs]
    · next hs => simp [h, hs, eq_comm]
  · next h => simp [h]

theorem fetchInstr_eq_next {s : State} {i : Instr} :
    fetchInstr s = .next i ↔ ∃ w, fetchHalf s s.pc = .next w ∧ decode s.cfg.hasMul w = .ok i := by
  unfold fetchInstr
  rw [andThen_eq_next]
  refine exists_congr fun w => and_congr_right fun _ => ?_
  split <;> simp_all

/-! ## Control registers -/

/-- Everything a read of a control register can deliver (R339). -/
theorem readControl_eq_next {s : State} {k : BitVec 11} {r : Word × State} (h : readControl s k = .next r) :
    (k.toNat = 0 ∧ r = (s.status.toBits.zeroExtend 32, s)) ∨
    (k.toNat = 1 ∧ r = (s.istatus.toBits.zeroExtend 32, s)) ∨
    (k.toNat = 2 ∧ r = (s.wvalid.toBits.zeroExtend 32, s)) ∨
    ((k.toNat = 8 ∨ k.toNat = 9) ∧
      r = (Config.freeWord s.freeCount, { s with freeCount := s.freeCount + 1 })) := by
  unfold readControl at h
  split at h
  · next hk => exact .inl ⟨hk, (Host.Outcome.next.inj h).symm⟩
  · split at h
    · next hk => exact .inr (.inl ⟨hk, (Host.Outcome.next.inj h).symm⟩)
    · split at h
      · next hk => exact .inr (.inr (.inl ⟨hk, (Host.Outcome.next.inj h).symm⟩))
      · split at h
        · cases h
        · split at h
          · exact .inr (.inr (.inr ⟨by omega, (Host.Outcome.next.inj h).symm⟩))
          · cases h

theorem requireNop_eq_next {s t : State} :
    requireNop s = .next t ↔ fetchHalf s s.nextPc = .next nopWord ∧ t = s := by
  unfold requireNop
  rw [andThen_eq_next]
  constructor
  · rintro ⟨w, hw, h⟩
    split at h
    · next he => exact ⟨he ▸ hw, (Host.Outcome.next.inj h).symm⟩
    · cases h
  · rintro ⟨h, rfl⟩
    exact ⟨nopWord, h, by simp⟩

/-- Everything a write of a control register can do (R341). -/
theorem writeControl_eq_next {s t : State} {k : BitVec 11} {v : Half} (h : writeControl s k v = .next t) :
    (k.toNat = 0 ∧ fetchHalf s s.nextPc = .next nopWord ∧ t = { s with status := StatusReg.ofBits v }) ∨
    (k.toNat = 1 ∧ t = { s with istatus := StatusReg.ofBits v }) ∨
    (k.toNat = 2 ∧ s.cfg.wvalidWritable = true ∧ t = { s with wvalid := WvalidReg.ofBits v }) ∨
    (k.toNat = 2 ∧ s.cfg.wvalidWritable = false ∧ t = s) ∨
    (k.toNat = 8 ∧ t = { s with status := { s.status with ie := false } }) ∨
    (k.toNat = 9 ∧ t = { s with status := { s.status with ie := true } }) := by
  unfold writeControl at h
  split at h
  · next hk =>
    rw [requireNop_eq_next] at h
    exact .inl ⟨hk, h.1, h.2⟩
  · split at h
    · next hk => exact .inr (.inl ⟨hk, (Host.Outcome.next.inj h).symm⟩)
    · split at h
      · next hk =>
        have ht := (Host.Outcome.next.inj h).symm
        split at ht
        · next hw => exact .inr (.inr (.inl ⟨hk, hw, ht⟩))
        · next hw => exact .inr (.inr (.inr (.inl ⟨hk, by simpa using hw, ht⟩)))
      · split at h
        · cases h
        · split at h
          · next hk => exact .inr (.inr (.inr (.inr (.inl ⟨hk, (Host.Outcome.next.inj h).symm⟩))))
          · split at h
            · next hk => exact .inr (.inr (.inr (.inr (.inr ⟨hk, (Host.Outcome.next.inj h).symm⟩))))
            · cases h

/-! ## Exceptions -/

/-- Everything the entry into an exception does (R380). -/
theorem enterException_eq_next {s t : State} {n : BitVec 6} {ret : Addr} {dec : Bool} :
    enterException s n ret dec = .next t ↔
      ∃ i, (s.enterStatus n dec).phys regO7 = some i ∧
        populatedRange s.cfg (vectorAddr s.cfg n).toNat 4 = true ∧
        t = { (s.enterStatus n dec).setPhys i (returnValue ret) with
              k := 0#11, p := false, bt := none
              pc := codeAddr (Memory.readWord s.mem (vectorAddr s.cfg n).toNat) } := by
  unfold enterException
  rw [andThen_eq_next]
  constructor
  · rintro ⟨u, hu, h⟩
    obtain ⟨i, hi, rfl⟩ := writeReg_eq_next.mp hu
    obtain ⟨e, he, h⟩ := andThen_eq_next.mp h
    obtain ⟨hp, rfl⟩ := memReadWord_eq_next.mp he
    exact ⟨i, hi, hp, (Host.Outcome.next.inj h).symm⟩
  · rintro ⟨i, hi, hp, rfl⟩
    refine ⟨_, writeReg_of_phys _ hi, andThen_eq_next.mpr ⟨_, memReadWord_eq_next.mpr ⟨hp, rfl⟩, rfl⟩⟩

/-- A window underflow request is taken or dropped (R372). -/
theorem raiseWindowUnderflow_eq_next {s t : State} (h : raiseWindowUnderflow s = .next t) :
    (s.status.ie = true ∧ 1 < s.status.ipri.toNat ∧ enterException s 1#6 s.pc false = .next t) ∨
      ((s.status.ie = false ∨ s.status.ipri.toNat ≤ 1) ∧ t = s) := by
  unfold raiseWindowUnderflow at h
  split at h
  · next hc => simp at hc; exact .inl ⟨hc.1, hc.2, h⟩
  · next hc =>
    refine .inr ⟨?_, (Host.Outcome.next.inj h).symm⟩
    cases hie : s.status.ie
    · exact .inl rfl
    · simp [hie] at hc; exact .inr hc

/-- A window overflow request is taken or dropped (R373). -/
theorem raiseWindowOverflow_eq_next {s t : State} (h : raiseWindowOverflow s = .next t) :
    (s.status.ie = true ∧ 2 < s.status.ipri.toNat ∧ enterException s 2#6 s.pc true = .next t) ∨
      ((s.status.ie = false ∨ s.status.ipri.toNat ≤ 2) ∧ t = s) := by
  unfold raiseWindowOverflow at h
  split at h
  · next hc => simp at hc; exact .inl ⟨hc.1, hc.2, h⟩
  · next hc =>
    refine .inr ⟨?_, (Host.Outcome.next.inj h).symm⟩
    cases hie : s.status.ie
    · exact .inl rfl
    · simp [hie] at hc; exact .inr hc

/-! ## Shapes of instruction -/

theorem logicOperand_eq_next {s : State} {bi : BitVec 5} {v : Word} :
    logicOperand s bi = .next v ↔
      (s.p = true ∧ v = zextImm s.k bi) ∨ (s.p = false ∧ ∃ i, s.phys bi = some i ∧ v = s.regs.get i) := by
  unfold logicOperand
  split
  · next h => simp [h, eq_comm]
  · next h => simp [h, readReg_eq_next]

theorem writeAndFinish_eq_next {s t : State} {a : RegIx} {v : Word} :
    writeAndFinish s a v = .next t ↔ ∃ i, s.phys a = some i ∧ t = (s.setPhys i v).finish := by
  unfold writeAndFinish
  rw [andThen_eq_next]
  constructor
  · rintro ⟨u, hu, h⟩
    obtain ⟨i, hi, rfl⟩ := writeReg_eq_next.mp hu
    exact ⟨i, hi, (Host.Outcome.next.inj h).symm⟩
  · rintro ⟨i, hi, rfl⟩
    exact ⟨_, writeReg_of_phys v hi, rfl⟩

theorem writeFlagsAndFinish_eq_next {s t : State} {a : RegIx} {v : Word} {f : Flags} :
    writeFlagsAndFinish s a v f = .next t ↔
      ∃ i, s.phys a = some i ∧ t = ((s.setFlags f).setPhys i v).finish := writeAndFinish_eq_next

theorem unaryOp_eq_next {s t : State} {d a : RegIx} {f : Word → Word} :
    unaryOp s d a f = .next t ↔
      ∃ i j, s.phys a = some i ∧ s.phys d = some j ∧ t = (s.setPhys j (f (s.regs.get i))).finish := by
  simp only [unaryOp, andThen_eq_next, readReg_eq_next, writeAndFinish_eq_next]
  constructor
  · rintro ⟨x, ⟨i, hi, rfl⟩, j, hj, rfl⟩
    exact ⟨i, j, hi, hj, rfl⟩
  · rintro ⟨i, j, hi, hj, rfl⟩
    exact ⟨_, ⟨i, hi, rfl⟩, j, hj, rfl⟩

theorem binaryOp_eq_next {s t : State} {d a b : RegIx} {f : Word → Word → Word} :
    binaryOp s d a b f = .next t ↔
      ∃ i j k, s.phys a = some i ∧ s.phys b = some j ∧ s.phys d = some k ∧
        t = (s.setPhys k (f (s.regs.get i) (s.regs.get j))).finish := by
  simp only [binaryOp, andThen_eq_next, readReg_eq_next, writeAndFinish_eq_next]
  constructor
  · rintro ⟨x, ⟨i, hi, rfl⟩, y, ⟨j, hj, rfl⟩, k, hk, rfl⟩
    exact ⟨i, j, k, hi, hj, hk, rfl⟩
  · rintro ⟨i, j, k, hi, hj, hk, rfl⟩
    exact ⟨_, ⟨i, hi, rfl⟩, _, ⟨j, hj, rfl⟩, k, hk, rfl⟩

theorem arithReg_eq_next {s t : State} {a b : RegIx} {f : Word → Word → Word × Flags} :
    arithReg s a b f = .next t ↔
      ∃ i j, s.phys a = some i ∧ s.phys b = some j ∧
        t = ((s.setFlags (f (s.regs.get i) (s.regs.get j)).2).setPhys i
              (f (s.regs.get i) (s.regs.get j)).1).finish := by
  simp only [arithReg, andThen_eq_next, readReg_eq_next, writeFlagsAndFinish_eq_next]
  constructor
  · rintro ⟨x, ⟨i, hi, rfl⟩, y, ⟨j, hj, rfl⟩, k, hk, rfl⟩
    obtain rfl : i = k := Option.some.inj (hi.symm.trans hk)
    exact ⟨i, j, hi, hj, rfl⟩
  · rintro ⟨i, j, hi, hj, rfl⟩
    exact ⟨_, ⟨i, hi, rfl⟩, _, ⟨j, hj, rfl⟩, i, hi, rfl⟩

theorem arithImm_eq_next {s t : State} {a : RegIx} {imm5 : BitVec 5} {f : Word → Word → Word × Flags} :
    arithImm s a imm5 f = .next t ↔
      ∃ i, s.phys a = some i ∧
        t = ((s.setFlags (f (s.regs.get i) (zextImm s.k imm5)).2).setPhys i
              (f (s.regs.get i) (zextImm s.k imm5)).1).finish := by
  simp only [arithImm, andThen_eq_next, readReg_eq_next, writeFlagsAndFinish_eq_next]
  constructor
  · rintro ⟨x, ⟨i, hi, rfl⟩, k, hk, rfl⟩
    obtain rfl : i = k := Option.some.inj (hi.symm.trans hk)
    exact ⟨i, hi, rfl⟩
  · rintro ⟨i, hi, rfl⟩
    exact ⟨_, ⟨i, hi, rfl⟩, i, hi, rfl⟩

theorem logicOp_eq_next {s t : State} {a : RegIx} {bi : BitVec 5} {f : Word → Word → Word} :
    logicOp s a bi f = .next t ↔
      ∃ i y, s.phys a = some i ∧ logicOperand s bi = .next y ∧
        t = ((s.setFlags (logicFlags (f (s.regs.get i) y) s.status.flags)).setPhys i
              (f (s.regs.get i) y)).finish := by
  simp only [logicOp, andThen_eq_next, readReg_eq_next, writeFlagsAndFinish_eq_next]
  constructor
  · rintro ⟨x, ⟨i, hi, rfl⟩, y, hy, k, hk, rfl⟩
    obtain rfl : i = k := Option.some.inj (hi.symm.trans hk)
    exact ⟨i, y, hi, hy, rfl⟩
  · rintro ⟨i, y, hi, hy, rfl⟩
    exact ⟨_, ⟨i, hi, rfl⟩, y, hy, i, hi, rfl⟩

theorem rotateOp_eq_next {s t : State} {a : RegIx} {f : Word → Bool → Word × Bool} :
    rotateOp s a f = .next t ↔
      ∃ i, s.phys a = some i ∧
        t = ((s.setFlags { s.status.flags with c := (f (s.regs.get i) s.status.flags.c).2 }).setPhys i
              (f (s.regs.get i) s.status.flags.c).1).finish := by
  simp only [rotateOp, andThen_eq_next, readReg_eq_next, writeFlagsAndFinish_eq_next]
  constructor
  · rintro ⟨x, ⟨i, hi, rfl⟩, k, hk, rfl⟩
    obtain rfl : i = k := Option.some.inj (hi.symm.trans hk)
    exact ⟨i, hi, rfl⟩
  · rintro ⟨i, hi, rfl⟩
    exact ⟨_, ⟨i, hi, rfl⟩, i, hi, rfl⟩

theorem loadOp_eq_next {s t : State} {a : RegIx} {ea : Word} :
    loadOp s a ea = .next t ↔
      ∃ i, s.phys a = some i ∧ populatedRange s.cfg ea.toNat 4 = true ∧
        t = (s.setPhys i (Memory.readWord s.mem ea.toNat)).finish := by
  simp only [loadOp, andThen_eq_next, memReadWord_eq_next, writeAndFinish_eq_next]
  constructor
  · rintro ⟨v, ⟨hp, rfl⟩, i, hi, rfl⟩
    exact ⟨i, hi, hp, rfl⟩
  · rintro ⟨i, hi, hp, rfl⟩
    exact ⟨_, ⟨hp, rfl⟩, i, hi, rfl⟩

theorem storeOp_eq_next {s t : State} {ea : Word} {bs : List Byte} :
    storeOp s ea bs = .next t ↔
      populatedRange s.cfg ea.toNat bs.length = true ∧ t = (s.store ea.toNat bs).finish := by
  simp only [storeOp, andThen_eq_next, memWrite_eq_next]
  constructor
  · rintro ⟨u, ⟨hp, rfl⟩, h⟩
    exact ⟨hp, (Host.Outcome.next.inj h).symm⟩
  · rintro ⟨hp, rfl⟩
    exact ⟨_, ⟨hp, rfl⟩, rfl⟩

theorem outsideDelaySlot_eq_next {s t : State} {r : Result State} :
    outsideDelaySlot s r = .next t ↔ s.bt = none ∧ r = .next t := by
  unfold outsideDelaySlot
  cases s.bt <;> simp

theorem outsideDelaySlot_of_none {s : State} {r : Result State} (h : s.bt = none) :
    outsideDelaySlot s r = r := by
  simp [outsideDelaySlot, h]

/-- Everything a skip can do (R310). -/
theorem skipOp_eq_next {s t : State} {cond : Bool} (h : skipOp s cond = .next t) :
    (cond = false ∧ t = s.clearPfx.setPc (s.pc + 2#33)) ∨
    (cond = true ∧ ∃ w, fetchHalf s (s.pc + 2#33) = .next w ∧
      t = s.clearPfx.setPc (if isPfxWord w then s.pc + 6#33 else s.pc + 4#33)) := by
  cases cond
  · exact .inl ⟨rfl, (Host.Outcome.next.inj h).symm⟩
  · simp only [skipOp, if_true, andThen_eq_next] at h
    obtain ⟨w, hw, h⟩ := h
    exact .inr ⟨rfl, w, hw, (Host.Outcome.next.inj h).symm⟩

/-! ## The step -/

/-- Everything a step can do: it accepts the interrupt of this boundary, or runs the instruction at `pc`. -/
theorem step_eq_next {s t : State} (h : step s = .next t) :
    (s.acceptsInterrupt = true ∧ takeInterrupt s = .next t) ∨
    (s.acceptsInterrupt = false ∧ ∃ i, fetchInstr s.afterSample = .next i ∧ exec i s.afterSample = .next t) := by
  unfold step at h
  split at h
  · next ha => exact .inl ⟨ha, h⟩
  · next ha => exact .inr ⟨by simpa using ha, andThen_eq_next.mp h⟩

end Sys2Proof.Machine
end

