-- ==== Sys2Proof/Laws/Exec.lean ====
section
/-! SUPPORT. Everything an instruction that completes can leave: one lemma over all instructions, which the
whole-machine statements follow from. -/

namespace Sys2Proof.Machine

/-- The states an instruction `i` run in `s` can leave, by the shape of the instruction. -/
inductive Left (s : State) : Instr → State → Prop
  /-- A register written, and flags where the instruction is a flag writer. -/
  | result {i : Instr} (store : isStore i = false) (barred : barredFromDelaySlot i = false) (save : ∀ n, i ≠ .save n)
      (restore : i ≠ .restore) (wrctl : ∀ a, i ≠ .wrctl a) (f : Flags) (j : Fin 512) (v : Word)
      (place : j.val < s.cfg.nreg.count) (flags : writesFlags i = false → f = s.status.flags) :
      Left s i ((s.setFlags f).setPhys j v).finish
  /-- CMP. -/
  | compared (a b : RegIx) (f : Flags) : Left s (.cmp a b) (s.setFlags f).finish
  /-- CMPI. -/
  | comparedImm (a : RegIx) (imm5 : BitVec 5) (f : Flags) : Left s (.cmpi a imm5) (s.setFlags f).finish
  /-- The nine stores. -/
  | stored {i : Instr} (store : isStore i = true) (ea : Word) (bs : List Byte)
      (populated : populatedRange s.cfg ea.toNat bs.length = true) : Left s i (s.store ea.toNat bs).finish
  /-- BR. -/
  | branched (imm11 : BitVec 11) (slot : s.bt = none) : Left s (.br imm11) (s.branchTo (branchTarget s.pc imm11))
  /-- BSR. -/
  | branchedLinked (imm11 : BitVec 11) (d : Fin 512) (slot : s.bt = none) (place : d.val < s.cfg.nreg.count) :
      Left s (.bsr imm11) ((s.setPhys d (returnValue (s.pc + 4#33))).branchTo (branchTarget s.pc imm11))
  /-- JMP. -/
  | jumped (a : RegIx) (x : Word) (slot : s.bt = none) : Left s (.jmp a) (s.branchTo (codeAddr x))
  /-- CALL. -/
  | called (a : RegIx) (x : Word) (d : Fin 512) (slot : s.bt = none) (place : d.val < s.cfg.nreg.count) :
      Left s (.call a) ((s.setPhys d (returnValue (s.pc + 4#33))).branchTo (codeAddr x))
  /-- The five skips. -/
  | skipped {i : Instr} (skip : (∃ a n, i = .skp0 a n) ∨ (∃ a n, i = .skp1 a n) ∨ (∃ a, i = .skprz a) ∨
      (∃ a, i = .skprnz a) ∨ ∃ n, i = .skps n) (slot : s.bt = none) (target : Addr)
      (near : target = s.pc + 2#33 ∨ target = s.pc + 4#33 ∨ target = s.pc + 6#33) :
      Left s i (s.clearPfx.setPc target)
  /-- PFX. -/
  | prefixed (imm11 : BitVec 11) (slot : s.bt = none) (first : s.p = false) :
      Left s (.pfx imm11) { s with k := imm11, p := true, pc := s.pc + 2#33 }
  /-- SAVE without an underflow. -/
  | saved (imm8 : BitVec 8) (d : Fin 512) (v : Word) (place : d.val < s.cfg.nreg.count) :
      Left s (.save imm8) ((s.setCwp (s.status.cwp - 1#5)).setPhys d v).finish
  /-- SAVE with an underflow. -/
  | savedUnderflow (imm8 : BitVec 8) (d : Fin 512) (v : Word) (t : State) (place : d.val < s.cfg.nreg.count)
      (enter : enterException ((s.setCwp (s.status.cwp - 1#5)).setPhys d v).finish 1#6 s.nextPc false = .next t) :
      Left s (.save imm8) t
  /-- RESTORE without an overflow. -/
  | restored : Left s .restore (s.setCwp (s.status.cwp + 1#5)).finish
  /-- RESTORE with an overflow. -/
  | restoredOverflow (t : State)
      (enter : enterException (s.setCwp (s.status.cwp + 1#5)).finish 2#6 s.nextPc true = .next t) :
      Left s .restore t
  /-- TRAP. -/
  | trapped (imm6 : BitVec 6) (t : State) (slot : s.bt = none)
      (enter : enterException s imm6 (s.pc + 2#33) true = .next t) : Left s (.trap imm6) t
  /-- TRET. -/
  | returned (a : RegIx) (x : Word) (slot : s.bt = none) : Left s (.tret a) (s.returnTo (codeAddr x))
  /-- RDCTL: `count` is the count of free values, drawn or not. -/
  | readControl (a : RegIx) (j : Fin 512) (v : Word) (count : Nat) (place : j.val < s.cfg.nreg.count) :
      Left s (.rdctl a) (State.setPhys { s with freeCount := count } j v).finish
  /-- WRCTL of STATUS, ISTATUS, WVALID, and of IE by CLR_IE or SET_IE. -/
  | wroteStatus (a : RegIx) (r : StatusReg) (k : s.k = 0#11) : Left s (.wrctl a) (State.finish { s with status := r })
  | wroteIstatus (a : RegIx) (r : StatusReg) : Left s (.wrctl a) (State.finish { s with istatus := r })
  | wroteWvalid (a : RegIx) (w : WvalidReg) : Left s (.wrctl a) (State.finish { s with wvalid := w })
  | wroteEnable (a : RegIx) (b : Bool) :
      Left s (.wrctl a) (State.finish { s with status := { s.status with ie := b } })

theorem left_of_write {s t : State} {i : Instr} {d : RegIx} {v : Word}
    (store : isStore i = false) (barred : barredFromDelaySlot i = false) (save : ∀ n, i ≠ .save n)
    (restore : i ≠ .restore) (wrctl : ∀ a, i ≠ .wrctl a) (h : writeAndFinish s d v = .next t) : Left s i t := by
  obtain ⟨j, hj, rfl⟩ := writeAndFinish_eq_next.mp h
  exact .result store barred save restore wrctl s.status.flags j v (physReg_lt_count hj) fun _ => rfl

theorem left_of_writeFlags {s t : State} {i : Instr} {d : RegIx} {v : Word} {f : Flags}
    (store : isStore i = false) (barred : barredFromDelaySlot i = false) (save : ∀ n, i ≠ .save n)
    (restore : i ≠ .restore) (wrctl : ∀ a, i ≠ .wrctl a) (flags : writesFlags i = true)
    (h : writeFlagsAndFinish s d v f = .next t) : Left s i t := by
  obtain ⟨j, hj, rfl⟩ := writeFlagsAndFinish_eq_next.mp h
  exact .result store barred save restore wrctl f j v (physReg_lt_count hj) fun h => absurd (flags.symm.trans h) (by decide)

theorem left_of_store {s t : State} {i : Instr} {ea : Word} {bs : List Byte} (store : isStore i = true)
    (h : storeOp s ea bs = .next t) : Left s i t := by
  obtain ⟨hp, rfl⟩ := storeOp_eq_next.mp h
  exact .stored store ea bs hp

theorem left_of_skip {s t : State} {i : Instr} {c : Bool}
    (skip : (∃ a n, i = .skp0 a n) ∨ (∃ a n, i = .skp1 a n) ∨ (∃ a, i = .skprz a) ∨ (∃ a, i = .skprnz a) ∨
      ∃ n, i = .skps n) (slot : s.bt = none) (h : skipOp s c = .next t) : Left s i t := by
  rcases skipOp_eq_next h with ⟨-, rfl⟩ | ⟨-, w, -, rfl⟩
  · exact .skipped skip slot _ (.inl rfl)
  · refine .skipped skip slot _ ?_
    split <;> simp

theorem left_save {s t : State} {imm8 : BitVec 8} (h : execSave imm8 s = .next t) : Left s (.save imm8) t := by
  unfold execSave at h
  obtain ⟨x, -, h⟩ := andThen_eq_next.mp h
  obtain ⟨u, hu, h⟩ := andThen_eq_next.mp h
  obtain ⟨d, hd, rfl⟩ := writeReg_eq_next.mp hu
  split at h
  · rcases raiseWindowUnderflow_eq_next h with ⟨-, -, h⟩ | ⟨-, rfl⟩
    · exact .savedUnderflow imm8 d _ t (physReg_lt_count hd) h
    · exact .saved imm8 d _ (physReg_lt_count hd)
  · cases h
    exact .saved imm8 d _ (physReg_lt_count hd)

theorem left_restore {s t : State} (h : execRestore s = .next t) : Left s .restore t := by
  unfold execRestore at h
  dsimp only at h
  split at h
  · rcases raiseWindowOverflow_eq_next h with ⟨-, -, h⟩ | ⟨-, rfl⟩
    · exact .restoredOverflow t h
    · exact .restored
  · rw [← Host.Outcome.next.inj h]
    exact .restored

theorem left_rdctl {s t : State} {a : RegIx} (h : execRdctl a s = .next t) : Left s (.rdctl a) t := by
  unfold execRdctl at h
  obtain ⟨r, hr, h⟩ := andThen_eq_next.mp h
  obtain ⟨j, hj, rfl⟩ := writeAndFinish_eq_next.mp h
  rcases readControl_eq_next hr with ⟨-, rfl⟩ | ⟨-, rfl⟩ | ⟨-, rfl⟩ | ⟨-, rfl⟩
  · exact .readControl a j _ s.freeCount (physReg_lt_count hj)
  · exact .readControl a j _ s.freeCount (physReg_lt_count hj)
  · exact .readControl a j _ s.freeCount (physReg_lt_count hj)
  · exact .readControl a j _ _ (physReg_lt_count hj)

theorem left_wrctl {s t : State} {a : RegIx} (h : execWrctl a s = .next t) : Left s (.wrctl a) t := by
  unfold execWrctl at h
  obtain ⟨x, -, h⟩ := andThen_eq_next.mp h
  obtain ⟨u, hu, h⟩ := andThen_eq_next.mp h
  rw [← Host.Outcome.next.inj h]
  rcases writeControl_eq_next hu with ⟨hk, -, rfl⟩ | ⟨-, rfl⟩ | ⟨-, -, rfl⟩ | ⟨-, -, rfl⟩ | ⟨-, rfl⟩ | ⟨-, rfl⟩
  · exact .wroteStatus a _ (BitVec.eq_of_toNat_eq hk)
  · exact .wroteIstatus a _
  · exact .wroteWvalid a _
  · exact .wroteWvalid a u.wvalid
  · exact .wroteEnable a _
  · exact .wroteEnable a _

/-- Everything an instruction that completes can leave. -/
theorem exec_left {i : Instr} {s t : State} (h : exec i s = .next t) : Left s i t := by
  cases i
  case cmp a b =>
    obtain ⟨x, -, h⟩ := andThen_eq_next.mp h
    obtain ⟨y, -, h⟩ := andThen_eq_next.mp h
    rw [← Host.Outcome.next.inj h]
    exact .compared a b _
  case cmpi a imm5 =>
    obtain ⟨x, -, h⟩ := andThen_eq_next.mp h
    rw [← Host.Outcome.next.inj h]
    exact .comparedImm a imm5 _
  case save => exact left_save h
  case restore => exact left_restore h
  case rdctl => exact left_rdctl h
  case wrctl => exact left_wrctl h
  case br imm11 =>
    obtain ⟨hb, h⟩ := outsideDelaySlot_eq_next.mp h
    rw [← Host.Outcome.next.inj h]
    exact .branched imm11 hb
  case bsr imm11 =>
    obtain ⟨hb, h⟩ := outsideDelaySlot_eq_next.mp h
    obtain ⟨u, hu, h⟩ := andThen_eq_next.mp h
    obtain ⟨d, hd, rfl⟩ := writeReg_eq_next.mp hu
    rw [← Host.Outcome.next.inj h]
    exact .branchedLinked imm11 d hb (physReg_lt_count hd)
  case jmp a =>
    obtain ⟨hb, h⟩ := outsideDelaySlot_eq_next.mp h
    obtain ⟨x, -, h⟩ := andThen_eq_next.mp h
    rw [← Host.Outcome.next.inj h]
    exact .jumped a x hb
  case call a =>
    obtain ⟨hb, h⟩ := outsideDelaySlot_eq_next.mp h
    obtain ⟨x, -, h⟩ := andThen_eq_next.mp h
    obtain ⟨u, hu, h⟩ := andThen_eq_next.mp h
    obtain ⟨d, hd, rfl⟩ := writeReg_eq_next.mp hu
    rw [← Host.Outcome.next.inj h]
    exact .called a x d hb (physReg_lt_count hd)
  case pfx imm11 =>
    obtain ⟨hb, h⟩ := outsideDelaySlot_eq_next.mp h
    split at h
    · cases h
    · next hp =>
      rw [← Host.Outcome.next.inj h]
      exact .prefixed imm11 hb (by simpa using hp)
  case skp0 a n =>
    obtain ⟨hb, h⟩ := outsideDelaySlot_eq_next.mp h
    obtain ⟨x, -, h⟩ := andThen_eq_next.mp h
    exact left_of_skip (.inl ⟨a, n, rfl⟩) hb h
  case skp1 a n =>
    obtain ⟨hb, h⟩ := outsideDelaySlot_eq_next.mp h
    obtain ⟨x, -, h⟩ := andThen_eq_next.mp h
    exact left_of_skip (.inr (.inl ⟨a, n, rfl⟩)) hb h
  case skprz a =>
    obtain ⟨hb, h⟩ := outsideDelaySlot_eq_next.mp h
    obtain ⟨x, -, h⟩ := andThen_eq_next.mp h
    exact left_of_skip (.inr (.inr (.inl ⟨a, rfl⟩))) hb h
  case skprnz a =>
    obtain ⟨hb, h⟩ := outsideDelaySlot_eq_next.mp h
    obtain ⟨x, -, h⟩ := andThen_eq_next.mp h
    exact left_of_skip (.inr (.inr (.inr (.inl ⟨a, rfl⟩)))) hb h
  case skps n =>
    obtain ⟨hb, h⟩ := outsideDelaySlot_eq_next.mp h
    split at h
    · exact left_of_skip (.inr (.inr (.inr (.inr ⟨n, rfl⟩)))) hb h
    · cases h
  case trap imm6 =>
    obtain ⟨hb, h⟩ := outsideDelaySlot_eq_next.mp h
    exact .trapped imm6 t hb h
  case tret a =>
    obtain ⟨hb, h⟩ := outsideDelaySlot_eq_next.mp h
    obtain ⟨x, -, h⟩ := andThen_eq_next.mp h
    rw [← Host.Outcome.next.inj h]
    exact .returned a x hb
  case mul a =>
    replace h : execMul a s = .next t := h
    unfold execMul at h
    split at h
    · obtain ⟨x, -, h⟩ := andThen_eq_next.mp h
      obtain ⟨y, -, h⟩ := andThen_eq_next.mp h
      exact left_of_write rfl rfl (by simp) (by simp) (by simp) h
    · cases h
  case st | stp | sts | st8d | st8s | st16d | st16s | sts8s | sts16s =>
    obtain ⟨x, -, h⟩ := andThen_eq_next.mp h
    obtain ⟨y, -, h⟩ := andThen_eq_next.mp h
    exact left_of_store rfl h
  case add | sub | and | andn | or | xor =>
    obtain ⟨x, -, h⟩ := andThen_eq_next.mp h
    obtain ⟨y, -, h⟩ := andThen_eq_next.mp h
    exact left_of_writeFlags rfl rfl (by simp) (by simp) (by simp) rfl h
  case addi | subi | rlc | rrc =>
    obtain ⟨x, -, h⟩ := andThen_eq_next.mp h
    exact left_of_writeFlags rfl rfl (by simp) (by simp) (by simp) rfl h
  case movi | bgen => exact left_of_write rfl rfl (by simp) (by simp) (by simp) h
  case mov | movhi | lsli | lsri | asri | ext8s | ext16s | not | neg | abs | sext8 | sext16 | swap | fill8 | fill16 =>
    obtain ⟨x, -, h⟩ := andThen_eq_next.mp h
    exact left_of_write rfl rfl (by simp) (by simp) (by simp) h
  case ld | ldp | lds =>
    obtain ⟨x, -, h⟩ := andThen_eq_next.mp h
    change andThen _ (fun v => writeAndFinish _ _ v) = _ at h
    obtain ⟨y, -, h⟩ := andThen_eq_next.mp h
    exact left_of_write rfl rfl (by simp) (by simp) (by simp) h
  case lsl | lsr | asr | ext8d | ext16d =>
    obtain ⟨i, j, k, -, -, hk, rfl⟩ := binaryOp_eq_next.mp h
    exact left_of_write rfl rfl (by simp) (by simp) (by simp) (writeAndFinish_eq_next.mpr ⟨k, hk, rfl⟩)
  case mstep a =>
    replace h : execMstep a s = .next t := h
    unfold execMstep at h
    obtain ⟨i, j, k, -, -, hk, rfl⟩ := binaryOp_eq_next.mp h
    exact left_of_write rfl rfl (by simp) (by simp) (by simp) (writeAndFinish_eq_next.mpr ⟨k, hk, rfl⟩)

end Sys2Proof.Machine
end

