-- ==== Sys2Proof/Laws/Memory.lean ====
section
/-! SUPPORT. Memory: a read after a write, and that every memory operation keeps the canonical form. -/

namespace Sys2Proof.Machine

/-! ## Reading after writing -/

theorem Memory.readByte_insertCell_same (m : Memory) (a : Nat) (b : Byte) (h : ∀ x ∈ m, x.1 ≠ a) :
    Memory.readByte (Memory.insertCell m a b) a = b := by
  induction m with
  | nil => simp [Memory.insertCell, Memory.readByte]
  | cons x rest ih =>
    obtain ⟨k, c⟩ := x
    have hk : k ≠ a := h (k, c) (by simp)
    have hr : ∀ y ∈ rest, y.1 ≠ a := fun y hy => h y (by simp [hy])
    simp only [Memory.insertCell]
    split
    · simp [Memory.readByte]
    · simp [Memory.readByte, hk, ih hr]

theorem Memory.readByte_insertCell_other (m : Memory) (a a' : Nat) (b : Byte) (h : a' ≠ a) :
    Memory.readByte (Memory.insertCell m a b) a' = Memory.readByte m a' := by
  induction m with
  | nil => simp [Memory.insertCell, Memory.readByte, Ne.symm h]
  | cons x rest ih =>
    obtain ⟨k, c⟩ := x
    simp only [Memory.insertCell]
    split
    · simp [Memory.readByte, Ne.symm h]
    · simp [Memory.readByte, ih]

theorem Memory.readByte_without_same (m : Memory) (a : Nat) :
    Memory.readByte (m.filter (fun x => decide (x.1 ≠ a))) a = unlistedByte := by
  induction m with
  | nil => rfl
  | cons x rest ih =>
    obtain ⟨k, c⟩ := x
    by_cases hk : k = a
    · simpa [hk] using ih
    · simpa [hk, Memory.readByte] using ih

theorem Memory.readByte_without_other (m : Memory) (a a' : Nat) (h : a' ≠ a) :
    Memory.readByte (m.filter (fun x => decide (x.1 ≠ a))) a' = Memory.readByte m a' := by
  induction m with
  | nil => rfl
  | cons x rest ih =>
    obtain ⟨k, c⟩ := x
    by_cases hk : k = a
    · subst hk
      simpa [Memory.readByte, Ne.symm h] using ih
    · by_cases hk' : k = a'
      · subst hk'
        simp [hk, Memory.readByte]
      · simpa [hk, hk', Memory.readByte] using ih

/-- A byte written is read back. -/
@[simp] theorem Memory.readByte_writeByte_same (m : Memory) (a : Nat) (b : Byte) :
    Memory.readByte (Memory.writeByte m a b) a = b := by
  unfold Memory.writeByte
  split
  · next hb => rw [Memory.readByte_without_same, hb]
  · exact Memory.readByte_insertCell_same _ a b (by simp)

/-- A write leaves every other byte alone. -/
theorem Memory.readByte_writeByte_other (m : Memory) (a a' : Nat) (b : Byte) (h : a' ≠ a) :
    Memory.readByte (Memory.writeByte m a b) a' = Memory.readByte m a' := by
  unfold Memory.writeByte
  split
  · exact Memory.readByte_without_other m a a' h
  · rw [Memory.readByte_insertCell_other _ a a' b h, Memory.readByte_without_other m a a' h]

/-- Bytes outside the range written read as before. -/
theorem Memory.readByte_writeBytes_outside (m : Memory) (a a' : Nat) (bs : List Byte)
    (h : a' < a ∨ a + bs.length ≤ a') :
    Memory.readByte (Memory.writeBytes m a bs) a' = Memory.readByte m a' := by
  induction bs generalizing m a with
  | nil => rfl
  | cons b rest ih =>
    simp only [List.length_cons] at h
    rw [Memory.writeBytes, ih _ _ (by omega), Memory.readByte_writeByte_other _ _ _ _ (by omega)]

/-- Bytes inside the range written read as written. -/
theorem Memory.readByte_writeBytes_inside (m : Memory) (a n : Nat) (bs : List Byte) (h : n < bs.length) :
    Memory.readByte (Memory.writeBytes m a bs) (a + n) = bs[n] := by
  induction bs generalizing m a n with
  | nil => simp at h
  | cons b rest ih =>
    cases n with
    | zero =>
      rw [Memory.writeBytes, Memory.readByte_writeBytes_outside _ _ _ _ (by omega)]
      simp
    | succ n =>
      simp only [List.length_cons] at h
      have := ih (Memory.writeByte m a b) (a + 1) n (by omega)
      rw [Memory.writeBytes, show a + (n + 1) = a + 1 + n by omega, this]
      simp

/-! ## The canonical form -/

/-- The canonical form, in words: rising addresses, all in the space, no byte that reads the same unlisted. -/
theorem Memory.wf_iff (m : Memory) :
    Memory.wf m = true ↔
      m.Pairwise (fun x y => x.1 < y.1) ∧ ∀ x ∈ m, x.1 < 2 ^ 33 ∧ x.2 ≠ unlistedByte := by
  simp [Memory.wf, List.all_eq_true]

theorem Memory.mem_insertCell (m : Memory) (a : Nat) (b : Byte) (x : Host.Cell) :
    x ∈ Memory.insertCell m a b ↔ x = (a, b) ∨ x ∈ m := by
  induction m with
  | nil => simp [Memory.insertCell]
  | cons y rest ih =>
    obtain ⟨k, c⟩ := y
    simp only [Memory.insertCell]
    split
    · simp
    · simp only [List.mem_cons, ih]
      tauto

theorem Memory.insertCell_rising (m : Memory) (a : Nat) (b : Byte)
    (h : m.Pairwise (fun x y => x.1 < y.1)) (ha : ∀ x ∈ m, x.1 ≠ a) :
    (Memory.insertCell m a b).Pairwise (fun x y => x.1 < y.1) := by
  induction m with
  | nil => simp [Memory.insertCell]
  | cons y rest ih =>
    obtain ⟨k, c⟩ := y
    rw [List.pairwise_cons] at h
    have hk : k ≠ a := ha (k, c) (by simp)
    simp only [Memory.insertCell]
    split
    · next hlt =>
      refine List.pairwise_cons.mpr ⟨?_, List.pairwise_cons.mpr h⟩
      intro x hx
      rcases List.mem_cons.mp hx with rfl | hx
      · exact hlt
      · exact Nat.lt_trans hlt (h.1 x hx)
    · next hge =>
      refine List.pairwise_cons.mpr ⟨?_, ih h.2 (fun x hx => ha x (by simp [hx]))⟩
      intro x hx
      rcases (Memory.mem_insertCell rest a b x).mp hx with rfl | hx
      · exact Nat.lt_of_le_of_ne (Nat.le_of_not_lt hge) hk
      · exact h.1 x hx

/-- Writing a byte keeps the canonical form. -/
theorem Memory.writeByte_wf (m : Memory) (a : Nat) (b : Byte) (h : Memory.wf m = true) (ha : a < 2 ^ 33) :
    Memory.wf (Memory.writeByte m a b) = true := by
  rw [Memory.wf_iff] at h ⊢
  have hf := h.1.filter (fun x => decide (x.1 ≠ a))
  unfold Memory.writeByte
  split
  · exact ⟨hf, fun x hx => h.2 x (List.mem_filter.mp hx).1⟩
  · next hb =>
    refine ⟨Memory.insertCell_rising _ a b hf (by simp), fun x hx => ?_⟩
    rcases (Memory.mem_insertCell _ a b x).mp hx with rfl | hx
    · exact ⟨ha, hb⟩
    · exact h.2 x (List.mem_filter.mp hx).1

/-- Writing bytes inside the address space keeps the canonical form. -/
theorem Memory.writeBytes_wf (m : Memory) (a : Nat) (bs : List Byte) (h : Memory.wf m = true)
    (ha : a + bs.length ≤ 2 ^ 33) : Memory.wf (Memory.writeBytes m a bs) = true := by
  induction bs generalizing m a with
  | nil => exact h
  | cons b rest ih =>
    simp only [List.length_cons] at ha
    exact ih _ _ (Memory.writeByte_wf m a b h (by omega)) (by omega)

/-- The memory of the reset state has the canonical form. -/
theorem resetWith_mem_wf (c : Config) : Memory.wf (State.resetWith c).mem = true := rfl

theorem reset_mem_wf : Memory.wf State.reset.mem = true := rfl

/-! ## The addresses stored to -/

theorem mem_insertAddr (a x : Nat) (l : List Nat) : x ∈ insertAddr a l ↔ x = a ∨ x ∈ l := by
  induction l with
  | nil => simp [insertAddr]
  | cons b rest ih =>
    simp only [insertAddr]
    split
    · simp
    · split
      · next h => subst h; simp
      · simp only [List.mem_cons, ih]
        tauto

theorem insertAddr_rising (a : Nat) (l : List Nat) (h : risingAddrs l = true) :
    risingAddrs (insertAddr a l) = true := by
  simp only [risingAddrs, decide_eq_true_eq] at h ⊢
  induction l with
  | nil => simp [insertAddr]
  | cons b rest ih =>
    rw [List.pairwise_cons] at h
    simp only [insertAddr]
    split
    · next hlt =>
      refine List.pairwise_cons.mpr ⟨fun x hx => ?_, List.pairwise_cons.mpr h⟩
      rcases List.mem_cons.mp hx with rfl | hx
      · exact hlt
      · exact Nat.lt_trans hlt (h.1 x hx)
    · split
      · exact List.pairwise_cons.mpr h
      · refine List.pairwise_cons.mpr ⟨fun x hx => ?_, ih h.2⟩
        rcases (mem_insertAddr a x rest).mp hx with rfl | hx
        · omega
        · exact h.1 x hx

/-- Noting a range of addresses keeps the list rising. -/
theorem insertRange_rising (a n : Nat) (l : List Nat) (h : risingAddrs l = true) :
    risingAddrs (insertRange a n l) = true := by
  induction n with
  | zero => exact h
  | succ n ih => exact insertAddr_rising _ _ ih

/-- The addresses noted are the ones of the range and the ones noted before. -/
theorem mem_insertRange (a n x : Nat) (l : List Nat) :
    x ∈ insertRange a n l ↔ (a ≤ x ∧ x < a + n) ∨ x ∈ l := by
  induction n with
  | zero =>
    simp only [insertRange, Nat.add_zero, iff_or_self]
    omega
  | succ n ih =>
    rw [insertRange, mem_insertAddr, ih]
    constructor
    · rintro (rfl | h | h)
      · exact .inl ⟨by omega, by omega⟩
      · exact .inl ⟨h.1, by omega⟩
      · exact .inr h
    · rintro (h | h)
      · by_cases hx : x = a + n
        · exact .inl hx
        · exact .inr (.inl ⟨h.1, by omega⟩)
      · exact .inr (.inr h)

/-! ## Where the platform has something -/

/-- Each byte of a populated range is populated. -/
theorem populatedRange_iff (c : Config) (a n : Nat) :
    populatedRange c a n = true ↔ ∀ k, k < n → populated c (a + k) = true := by
  induction n with
  | zero => simp [populatedRange]
  | succ n ih =>
    rw [populatedRange, Bool.and_eq_true, ih]
    constructor
    · rintro ⟨h, hn⟩ k hk
      by_cases hkn : k = n
      · exact hkn ▸ hn
      · exact h k (by omega)
    · exact fun h => ⟨fun k hk => h k (by omega), h n (by omega)⟩

/-- A populated address is inside the 33-bit space. -/
theorem lt_of_populated (c : Config) (a : Nat) (h : populated c a = true) : a < 2 ^ 33 := by
  simp only [populated, Bool.and_eq_true, decide_eq_true_eq] at h
  exact h.1

end Sys2Proof.Machine
end

