-- ==== Sys2Proof/Laws/PerInstr.lean ====
section
/-! SUPPORT. Statements for all instructions, made per instruction. `EncodingRow`: the word of an instruction has the
fixed bits of its row of the spec's opcode table (spec 30_encoding R150, spec/opcode_table.json), written here as the
table writes them, apart from the formats that `encode` is built of. -/

namespace Sys2Proof.Laws.EncodingRow

/-- A run of bits that a row of the opcode table fixes. -/
structure FixedBits where
  hi : Nat
  lo : Nat
  value : Nat
  deriving DecidableEq, Repr

/-- The runs of fixed bits of each instruction's row. -/
def fixedBits : Instr → List FixedBits
  | .add _ _ => [⟨15, 10, 0⟩]
  | .addi _ _ => [⟨15, 10, 1⟩]
  | .sub _ _ => [⟨15, 10, 2⟩]
  | .subi _ _ => [⟨15, 10, 3⟩]
  | .cmp _ _ => [⟨15, 10, 4⟩]
  | .cmpi _ _ => [⟨15, 10, 5⟩]
  | .lsl _ _ => [⟨15, 10, 6⟩]
  | .lsli _ _ => [⟨15, 10, 7⟩]
  | .lsr _ _ => [⟨15, 10, 8⟩]
  | .lsri _ _ => [⟨15, 10, 9⟩]
  | .asr _ _ => [⟨15, 10, 10⟩]
  | .asri _ _ => [⟨15, 10, 11⟩]
  | .mov _ _ => [⟨15, 10, 12⟩]
  | .movi _ _ => [⟨15, 10, 13⟩]
  | .and _ _ => [⟨15, 10, 14⟩]
  | .andn _ _ => [⟨15, 10, 15⟩]
  | .or _ _ => [⟨15, 10, 16⟩]
  | .xor _ _ => [⟨15, 10, 17⟩]
  | .bgen _ _ => [⟨15, 10, 18⟩]
  | .ext8d _ _ => [⟨15, 10, 19⟩]
  | .skp0 _ _ => [⟨15, 10, 20⟩]
  | .skp1 _ _ => [⟨15, 10, 21⟩]
  | .ld _ _ => [⟨15, 10, 22⟩]
  | .st _ _ => [⟨15, 10, 23⟩]
  | .sts8s _ => [⟨15, 10, 24⟩]
  | .sts16s _ => [⟨0, 0, 0⟩, ⟨15, 10, 25⟩]
  | .ext16d _ _ => [⟨15, 10, 26⟩]
  | .movhi _ _ => [⟨15, 10, 27⟩]
  | .ext8s _ _ => [⟨15, 7, 232⟩]
  | .ext16s _ _ => [⟨5, 5, 0⟩, ⟨15, 7, 233⟩]
  | .st8s _ _ => [⟨15, 7, 236⟩]
  | .st16s _ _ => [⟨5, 5, 0⟩, ⟨15, 7, 237⟩]
  | .save _ => [⟨15, 8, 120⟩]
  | .trap _ => [⟨15, 6, 484⟩]
  | .not _ => [⟨15, 5, 992⟩]
  | .neg _ => [⟨15, 5, 993⟩]
  | .abs _ => [⟨15, 5, 994⟩]
  | .sext8 _ => [⟨15, 5, 995⟩]
  | .sext16 _ => [⟨15, 5, 996⟩]
  | .rlc _ => [⟨15, 5, 997⟩]
  | .rrc _ => [⟨15, 5, 998⟩]
  | .swap _ => [⟨15, 5, 1000⟩]
  | .restore => [⟨15, 0, 32160⟩]
  | .tret _ => [⟨15, 5, 1006⟩]
  | .st8d _ => [⟨15, 5, 1008⟩]
  | .st16d _ => [⟨15, 5, 1009⟩]
  | .fill8 _ => [⟨15, 5, 1010⟩]
  | .fill16 _ => [⟨15, 5, 1011⟩]
  | .mstep _ => [⟨15, 5, 1012⟩]
  | .mul _ => [⟨15, 5, 1013⟩]
  | .skprz _ => [⟨15, 5, 1014⟩]
  | .skps _ => [⟨15, 4, 2030⟩]
  | .wrctl _ => [⟨15, 5, 1016⟩]
  | .rdctl _ => [⟨15, 5, 1017⟩]
  | .skprnz _ => [⟨15, 5, 1018⟩]
  | .jmp _ => [⟨15, 5, 1022⟩]
  | .call _ => [⟨15, 5, 1023⟩]
  | .br _ => [⟨15, 11, 16⟩]
  | .bsr _ => [⟨15, 11, 17⟩]
  | .pfx _ => [⟨15, 11, 19⟩]
  | .stp _ _ _ => [⟨15, 12, 10⟩]
  | .ldp _ _ _ => [⟨15, 12, 11⟩]
  | .sts _ _ => [⟨15, 13, 6⟩]
  | .lds _ _ => [⟨15, 13, 7⟩]

/-- Whether a word has a run of fixed bits. -/
def FixedBits.holds (f : FixedBits) (w : Half) : Prop := w.toNat / 2 ^ f.lo % 2 ^ (f.hi + 1 - f.lo) = f.value

/-- The word of `i` has the fixed bits of the row of `i`. -/
def Statement (i : Instr) : Prop := ∀ f ∈ fixedBits i, f.holds (encode i)

theorem formatRR_fixed (op6 : BitVec 6) (bi : BitVec 5) (a : BitVec 5) :
    ∀ f ∈ ([⟨15, 10, op6.toNat⟩] : List FixedBits), f.holds (formatRR op6 bi a) := by
  have := op6.isLt
  have := bi.isLt
  have := a.isLt
  simp only [List.forall_mem_cons, List.not_mem_nil, false_implies, implies_true, and_true, FixedBits.holds,
    formatRR, append_toNat]
  omega

theorem formatRPi5_fixed (op4 : BitVec 4) (p : BitVec 2) (imm5 : BitVec 5) (a : BitVec 5) :
    ∀ f ∈ ([⟨15, 12, op4.toNat⟩] : List FixedBits), f.holds (formatRPi5 op4 p imm5 a) := by
  have := op4.isLt
  have := p.isLt
  have := imm5.isLt
  have := a.isLt
  simp only [List.forall_mem_cons, List.not_mem_nil, false_implies, implies_true, and_true, FixedBits.holds,
    formatRPi5, append_toNat]
  omega

theorem formatRi8_fixed (op3 : BitVec 3) (imm8 : BitVec 8) (a : BitVec 5) :
    ∀ f ∈ ([⟨15, 13, op3.toNat⟩] : List FixedBits), f.holds (formatRi8 op3 imm8 a) := by
  have := op3.isLt
  have := imm8.isLt
  have := a.isLt
  simp only [List.forall_mem_cons, List.not_mem_nil, false_implies, implies_true, and_true, FixedBits.holds,
    formatRi8, append_toNat]
  omega

theorem formatI9_fixed (op6 : BitVec 6) (imm9 : BitVec 9) :
    ∀ f ∈ ([⟨0, 0, 0⟩, ⟨15, 10, op6.toNat⟩] : List FixedBits), f.holds (formatI9 op6 imm9) := by
  have := op6.isLt
  have := imm9.isLt
  simp only [List.forall_mem_cons, List.not_mem_nil, false_implies, implies_true, and_true, FixedBits.holds,
    formatI9, append_toNat, BitVec.toNat_ofNat]
  omega

theorem formatI10_fixed (op6 : BitVec 6) (imm10 : BitVec 10) :
    ∀ f ∈ ([⟨15, 10, op6.toNat⟩] : List FixedBits), f.holds (formatI10 op6 imm10) := by
  have := op6.isLt
  have := imm10.isLt
  simp only [List.forall_mem_cons, List.not_mem_nil, false_implies, implies_true, and_true, FixedBits.holds,
    formatI10, append_toNat]
  omega

theorem formatI11_fixed (op5 : BitVec 5) (imm11 : BitVec 11) :
    ∀ f ∈ ([⟨15, 11, op5.toNat⟩] : List FixedBits), f.holds (formatI11 op5 imm11) := by
  have := op5.isLt
  have := imm11.isLt
  simp only [List.forall_mem_cons, List.not_mem_nil, false_implies, implies_true, and_true, FixedBits.holds,
    formatI11, append_toNat]
  omega

theorem formatRi1u_fixed (op3u : BitVec 3) (imm1 : BitVec 1) (a : BitVec 5) :
    ∀ f ∈ ([⟨5, 5, 0⟩, ⟨15, 7, 232 + op3u.toNat⟩] : List FixedBits), f.holds (formatRi1u op3u imm1 a) := by
  have := op3u.isLt
  have := imm1.isLt
  have := a.isLt
  simp only [List.forall_mem_cons, List.not_mem_nil, false_implies, implies_true, and_true, FixedBits.holds,
    formatRi1u, append_toNat, BitVec.toNat_ofNat]
  omega

theorem formatRi2u_fixed (op3u : BitVec 3) (imm2 : BitVec 2) (a : BitVec 5) :
    ∀ f ∈ ([⟨15, 7, 232 + op3u.toNat⟩] : List FixedBits), f.holds (formatRi2u op3u imm2 a) := by
  have := op3u.isLt
  have := imm2.isLt
  have := a.isLt
  simp only [List.forall_mem_cons, List.not_mem_nil, false_implies, implies_true, and_true, FixedBits.holds,
    formatRi2u, append_toNat, BitVec.toNat_ofNat]
  omega

theorem formatI8v_fixed (op2v : BitVec 2) (imm8 : BitVec 8) :
    ∀ f ∈ ([⟨15, 8, 120 + op2v.toNat⟩] : List FixedBits), f.holds (formatI8v op2v imm8) := by
  have := op2v.isLt
  have := imm8.isLt
  simp only [List.forall_mem_cons, List.not_mem_nil, false_implies, implies_true, and_true, FixedBits.holds,
    formatI8v, append_toNat, BitVec.toNat_ofNat]
  omega

theorem formatI6v_fixed (op2v : BitVec 2) (imm6 : BitVec 6) :
    ∀ f ∈ ([⟨15, 6, 480 + 4 * op2v.toNat⟩] : List FixedBits), f.holds (formatI6v op2v imm6) := by
  have := op2v.isLt
  have := imm6.isLt
  simp only [List.forall_mem_cons, List.not_mem_nil, false_implies, implies_true, and_true, FixedBits.holds,
    formatI6v, append_toNat, BitVec.toNat_ofNat]
  omega

theorem formatRw_fixed (op5w : BitVec 5) (a : BitVec 5) :
    ∀ f ∈ ([⟨15, 5, 992 + op5w.toNat⟩] : List FixedBits), f.holds (formatRw op5w a) := by
  have := op5w.isLt
  have := a.isLt
  simp only [List.forall_mem_cons, List.not_mem_nil, false_implies, implies_true, and_true, FixedBits.holds,
    formatRw, append_toNat, BitVec.toNat_ofNat]
  omega

theorem formatI4w_fixed (op5w : BitVec 5) (imm4 : BitVec 4) :
    ∀ f ∈ ([⟨15, 4, 1984 + 2 * op5w.toNat⟩] : List FixedBits), f.holds (formatI4w op5w imm4) := by
  have := op5w.isLt
  have := imm4.isLt
  simp only [List.forall_mem_cons, List.not_mem_nil, false_implies, implies_true, and_true, FixedBits.holds,
    formatI4w, append_toNat, BitVec.toNat_ofNat]
  omega

theorem formatW_fixed (op5w : BitVec 5) :
    ∀ f ∈ ([⟨15, 0, 31744 + 32 * op5w.toNat⟩] : List FixedBits), f.holds (formatW op5w) := by
  have := op5w.isLt
  simp only [List.forall_mem_cons, List.not_mem_nil, false_implies, implies_true, and_true, FixedBits.holds,
    formatW, append_toNat, BitVec.toNat_ofNat]
  omega

theorem add (a : RegIx) (b : RegIx) : Statement (.add a b) :=
  formatRR_fixed 0b000000#6 b a

theorem addi (a : RegIx) (imm5 : BitVec 5) : Statement (.addi a imm5) :=
  formatRR_fixed 0b000001#6 imm5 a

theorem sub (a : RegIx) (b : RegIx) : Statement (.sub a b) :=
  formatRR_fixed 0b000010#6 b a

theorem subi (a : RegIx) (imm5 : BitVec 5) : Statement (.subi a imm5) :=
  formatRR_fixed 0b000011#6 imm5 a

theorem cmp (a : RegIx) (b : RegIx) : Statement (.cmp a b) :=
  formatRR_fixed 0b000100#6 b a

theorem cmpi (a : RegIx) (imm5 : BitVec 5) : Statement (.cmpi a imm5) :=
  formatRR_fixed 0b000101#6 imm5 a

theorem lsl (a : RegIx) (b : RegIx) : Statement (.lsl a b) :=
  formatRR_fixed 0b000110#6 b a

theorem lsli (a : RegIx) (imm5 : BitVec 5) : Statement (.lsli a imm5) :=
  formatRR_fixed 0b000111#6 imm5 a

theorem lsr (a : RegIx) (b : RegIx) : Statement (.lsr a b) :=
  formatRR_fixed 0b001000#6 b a

theorem lsri (a : RegIx) (imm5 : BitVec 5) : Statement (.lsri a imm5) :=
  formatRR_fixed 0b001001#6 imm5 a

theorem asr (a : RegIx) (b : RegIx) : Statement (.asr a b) :=
  formatRR_fixed 0b001010#6 b a

theorem asri (a : RegIx) (imm5 : BitVec 5) : Statement (.asri a imm5) :=
  formatRR_fixed 0b001011#6 imm5 a

theorem mov (a : RegIx) (b : RegIx) : Statement (.mov a b) :=
  formatRR_fixed 0b001100#6 b a

theorem movi (a : RegIx) (imm5 : BitVec 5) : Statement (.movi a imm5) :=
  formatRR_fixed 0b001101#6 imm5 a

theorem and (a : RegIx) (bi : BitVec 5) : Statement (.and a bi) :=
  formatRR_fixed 0b001110#6 bi a

theorem andn (a : RegIx) (bi : BitVec 5) : Statement (.andn a bi) :=
  formatRR_fixed 0b001111#6 bi a

theorem or (a : RegIx) (bi : BitVec 5) : Statement (.or a bi) :=
  formatRR_fixed 0b010000#6 bi a

theorem xor (a : RegIx) (bi : BitVec 5) : Statement (.xor a bi) :=
  formatRR_fixed 0b010001#6 bi a

theorem bgen (a : RegIx) (imm5 : BitVec 5) : Statement (.bgen a imm5) :=
  formatRR_fixed 0b010010#6 imm5 a

theorem ext8d (a : RegIx) (b : RegIx) : Statement (.ext8d a b) :=
  formatRR_fixed 0b010011#6 b a

theorem skp0 (a : RegIx) (imm5 : BitVec 5) : Statement (.skp0 a imm5) :=
  formatRR_fixed 0b010100#6 imm5 a

theorem skp1 (a : RegIx) (imm5 : BitVec 5) : Statement (.skp1 a imm5) :=
  formatRR_fixed 0b010101#6 imm5 a

theorem ld (a : RegIx) (b : RegIx) : Statement (.ld a b) :=
  formatRR_fixed 0b010110#6 b a

theorem st (a : RegIx) (b : RegIx) : Statement (.st a b) :=
  formatRR_fixed 0b010111#6 b a

theorem sts8s (imm10 : BitVec 10) : Statement (.sts8s imm10) :=
  formatI10_fixed 0b011000#6 imm10

theorem sts16s (imm9 : BitVec 9) : Statement (.sts16s imm9) :=
  formatI9_fixed 0b011001#6 imm9

theorem ext16d (a : RegIx) (b : RegIx) : Statement (.ext16d a b) :=
  formatRR_fixed 0b011010#6 b a

theorem movhi (a : RegIx) (imm5 : BitVec 5) : Statement (.movhi a imm5) :=
  formatRR_fixed 0b011011#6 imm5 a

theorem ext8s (a : RegIx) (imm2 : BitVec 2) : Statement (.ext8s a imm2) :=
  formatRi2u_fixed 0b000#3 imm2 a

theorem ext16s (a : RegIx) (imm1 : BitVec 1) : Statement (.ext16s a imm1) :=
  formatRi1u_fixed 0b001#3 imm1 a

theorem st8s (a : RegIx) (imm2 : BitVec 2) : Statement (.st8s a imm2) :=
  formatRi2u_fixed 0b100#3 imm2 a

theorem st16s (a : RegIx) (imm1 : BitVec 1) : Statement (.st16s a imm1) :=
  formatRi1u_fixed 0b101#3 imm1 a

theorem save (imm8 : BitVec 8) : Statement (.save imm8) :=
  formatI8v_fixed 0b00#2 imm8

theorem trap (imm6 : BitVec 6) : Statement (.trap imm6) :=
  formatI6v_fixed 0b01#2 imm6

theorem not (a : RegIx) : Statement (.not a) :=
  formatRw_fixed 0b00000#5 a

theorem neg (a : RegIx) : Statement (.neg a) :=
  formatRw_fixed 0b00001#5 a

theorem abs (a : RegIx) : Statement (.abs a) :=
  formatRw_fixed 0b00010#5 a

theorem sext8 (a : RegIx) : Statement (.sext8 a) :=
  formatRw_fixed 0b00011#5 a

theorem sext16 (a : RegIx) : Statement (.sext16 a) :=
  formatRw_fixed 0b00100#5 a

theorem rlc (a : RegIx) : Statement (.rlc a) :=
  formatRw_fixed 0b00101#5 a

theorem rrc (a : RegIx) : Statement (.rrc a) :=
  formatRw_fixed 0b00110#5 a

theorem swap (a : RegIx) : Statement (.swap a) :=
  formatRw_fixed 0b01000#5 a

theorem restore : Statement .restore :=
  formatW_fixed 0b01101#5

theorem tret (a : RegIx) : Statement (.tret a) :=
  formatRw_fixed 0b01110#5 a

theorem st8d (a : RegIx) : Statement (.st8d a) :=
  formatRw_fixed 0b10000#5 a

theorem st16d (a : RegIx) : Statement (.st16d a) :=
  formatRw_fixed 0b10001#5 a

theorem fill8 (a : RegIx) : Statement (.fill8 a) :=
  formatRw_fixed 0b10010#5 a

theorem fill16 (a : RegIx) : Statement (.fill16 a) :=
  formatRw_fixed 0b10011#5 a

theorem mstep (a : RegIx) : Statement (.mstep a) :=
  formatRw_fixed 0b10100#5 a

theorem mul (a : RegIx) : Statement (.mul a) :=
  formatRw_fixed 0b10101#5 a

theorem skprz (a : RegIx) : Statement (.skprz a) :=
  formatRw_fixed 0b10110#5 a

theorem skps (imm4 : BitVec 4) : Statement (.skps imm4) :=
  formatI4w_fixed 0b10111#5 imm4

theorem wrctl (a : RegIx) : Statement (.wrctl a) :=
  formatRw_fixed 0b11000#5 a

theorem rdctl (a : RegIx) : Statement (.rdctl a) :=
  formatRw_fixed 0b11001#5 a

theorem skprnz (a : RegIx) : Statement (.skprnz a) :=
  formatRw_fixed 0b11010#5 a

theorem jmp (a : RegIx) : Statement (.jmp a) :=
  formatRw_fixed 0b11110#5 a

theorem call (a : RegIx) : Statement (.call a) :=
  formatRw_fixed 0b11111#5 a

theorem br (imm11 : BitVec 11) : Statement (.br imm11) :=
  formatI11_fixed 0b10000#5 imm11

theorem bsr (imm11 : BitVec 11) : Statement (.bsr imm11) :=
  formatI11_fixed 0b10001#5 imm11

theorem pfx (imm11 : BitVec 11) : Statement (.pfx imm11) :=
  formatI11_fixed 0b10011#5 imm11

theorem stp (a : RegIx) (p : BitVec 2) (imm5 : BitVec 5) : Statement (.stp a p imm5) :=
  formatRPi5_fixed 0b1010#4 p imm5 a

theorem ldp (a : RegIx) (p : BitVec 2) (imm5 : BitVec 5) : Statement (.ldp a p imm5) :=
  formatRPi5_fixed 0b1011#4 p imm5 a

theorem sts (a : RegIx) (imm8 : BitVec 8) : Statement (.sts a imm8) :=
  formatRi8_fixed 0b110#3 imm8 a

theorem lds (a : RegIx) (imm8 : BitVec 8) : Statement (.lds a imm8) :=
  formatRi8_fixed 0b111#3 imm8 a

end Sys2Proof.Laws.EncodingRow
end

