-- ==== Sys2Proof/Laws/Values.lean ====
section
/-! SUPPORT. What the shared computations of values are as numbers, and the common ends of an instruction in the
terms of Safety.lean. -/

namespace Sys2Proof.Machine

/-! ## Values -/

/-- The constant of an IMM5 instruction as a number (R141, R142). -/
theorem zextImm_eq (k : BitVec 11) (i : BitVec 5) : zextImm k i = BitVec.ofNat 32 (prefixedConstant k i) := by
  apply BitVec.eq_of_toNat_eq
  have := k.isLt
  have := i.isLt
  simp only [zextImm, imm16, prefixedConstant, BitVec.zeroExtend, BitVec.toNat_setWidth, append_toNat,
    BitVec.toNat_ofNat]
  omega

/-- `align32` drops the remainder modulo 4 (R9). -/
theorem align32_toNat (x : Word) : (align32 x).toNat = x.toNat / 4 * 4 := by
  have : align32 x = (x >>> 2) <<< 2 := by
    ext i hi
    simp only [align32]
    interval_cases i <;> simp
  rw [this]
  have := x.isLt
  simp [Nat.shiftLeft_eq, Nat.shiftRight_eq_div_pow]
  omega

/-- The form in which an instruction address is kept in a register (R313). -/
theorem returnValue_eq (a : Addr) : returnValue a = BitVec.ofNat 32 (a.toNat / 2) := by
  apply BitVec.eq_of_toNat_eq
  simp [returnValue, BitVec.extractLsb'_toNat, Nat.shiftRight_eq_div_pow]

/-- A register's value as an instruction address (R303). -/
theorem codeAddr_eq (v : Word) : codeAddr v = BitVec.ofNat 33 (2 * v.toNat) := by
  apply BitVec.eq_of_toNat_eq
  have := v.isLt
  rw [codeAddr, append_toNat, BitVec.toNat_ofNat]
  simp
  omega

/-- The address of a vector (20_memory R103). -/
theorem vectorAddr_eq (c : Config) (n : BitVec 6) : vectorAddr c n = c.vecBase + BitVec.ofNat 32 (4 * n.toNat) := by
  unfold vectorAddr
  congr 1

/-- A half-word lane as two byte slices (20_memory R91, R96). -/
theorem bytesOfHalf_halfLane (v : Word) (n : BitVec 1) :
    bytesOfHalf (halfLane v n) = [v.extractLsb' (16 * n.toNat) 8, v.extractLsb' (16 * n.toNat + 8) 8] := by
  simp only [bytesOfHalf, halfLane, List.cons.injEq, and_true]
  constructor
  · ext i hi
    simp
    omega
  · ext i hi
    simp [show 8 + i < 16 by omega]
    congr 1
    omega

/-! ## Ends of an instruction -/

theorem finish_finished (s u : State) (hb : u.bt = s.bt) (hp : u.pc = s.pc) : s.finished u.finish := by
  refine ⟨rfl, rfl, rfl, ?_, ?_⟩
  · intro b h
    simp [State.nextPc, hb, h]
  · intro h hlt
    simp [State.nextPc, hb, h, hp, BitVec.toNat_add]
    omega

theorem finish_endsAs (s u : State) (hb : u.bt = s.bt) (hp : u.pc = s.pc) : s.endsAs u u.finish :=
  ⟨finish_finished s u hb hp, rfl⟩

theorem store_storedAs (s : State) (ea : Nat) (bs : List Byte) : s.storedAs ea bs (s.store ea bs).finish := by
  refine ⟨finish_finished s _ rfl rfl, rfl, ?_, ?_, ?_⟩
  · intro n h
    exact Memory.readByte_writeBytes_inside s.mem ea n bs h
  · intro a h
    exact Memory.readByte_writeBytes_outside s.mem ea a bs h
  · intro a
    simp [mem_insertRange]
    tauto

theorem execAll_cons {i : Instr} {is : List Instr} {s t : State} (h : exec i s = .next t) :
    execAll (i :: is) s = execAll is t := by
  simp [execAll, h]

end Sys2Proof.Machine
end

