-- ==== Sys2Proof/Tests/Slice0.lean ====
section
/-! SUPPORT. The model's own tests. Expected values are those of spec/95_test_vectors (the row's id stands before
each), or are worked out by hand from the rule named. The witnesses at the end show, for each statement that has
hypotheses, a state and operands that meet them. -/

namespace Sys2Proof.Tests

open Sys2Proof.Machine

/-! ## Helpers -/

/-- `x[r] <- v` in the current window. -/
def put (s : State) (r : RegIx) (v : Word) : State :=
  match writeReg s r v with
  | .next t => t
  | _ => s

/-- A word in memory, put there from outside the machine. -/
def poke (s : State) (a : Nat) (v : Word) : State := { s with mem := Memory.writeBytes s.mem a (bytesOfWord v) }

/-- IE, IPRI, CWP and the flags from a 16-bit STATUS value. -/
def withStatus (s : State) (w : Half) : State := { s with status := StatusReg.ofBits w }

/-- The state right after a PFX. -/
def afterPfx (s : State) (k : BitVec 11) : State := { s with k := k, p := true }

/-- The state in a delay slot. -/
def inSlot (s : State) (target : Addr) : State := { s with bt := some target }

/-- The reset state of another configuration. -/
def resetOf (nreg : RegFileSize) (hasMul : Bool) (absent : List Region) : State :=
  State.resetWith { Config.default with nreg := nreg, hasMul := hasMul, absent := absent }

/-- Whether the machine went on, to a state that passes a check. -/
def leaves (r : Host.Outcome State Fault Refusal) (check : State → Bool) : Bool :=
  match r with
  | .next t => check t
  | _ => false

/-- Whether the machine stopped with this fault. -/
def faults (r : Host.Outcome State Fault Refusal) (e : Fault) : Bool :=
  match r with
  | .fault f => decide (f = e)
  | _ => false

/-- Whether `x[r]` is `v`. -/
def reads (s : State) (r : RegIx) (v : Word) : Bool :=
  match readReg s r with
  | .next x => x == v
  | _ => false

/-- Whether the flags N : V : Z : C are these. -/
def flagsAre (s : State) (w : BitVec 4) : Bool := s.status.flags.toBits == w

/-! ## WellFormed refuses the instructions that do not exist -/

/-- R311. -/
theorem test_refuses_skps_14 :
    Instr.wellFormed true (.skps 14#4) = false ∧ Instr.wellFormed true (.skps 13#4) = true := by decide

/-- R311. -/
theorem test_refuses_skps_15 :
    Instr.wellFormed true (.skps 15#4) = false := by decide

/-- R139. -/
theorem test_refuses_mul_where_absent :
    Instr.wellFormed false (.mul 1#5) = false ∧ Instr.wellFormed true (.mul 1#5) = true := by decide

/-! ## Decoding, each word written bit by bit from the encoding of its row (95 §1.8, the example of the instruction's page) -/

theorem test_decode_add :
    decode false 0b0000000000010011#16 = .ok (.add 19#5 0#5) := by decide

theorem test_decode_addi :
    decode false 0b0000010011010101#16 = .ok (.addi 21#5 6#5) := by decide

theorem test_decode_sub :
    decode false 0b0000100000011011#16 = .ok (.sub 27#5 0#5) := by decide

theorem test_decode_subi :
    decode false 0b0000110011010101#16 = .ok (.subi 21#5 6#5) := by decide

theorem test_decode_cmp :
    decode false 0b0001000000100000#16 = .ok (.cmp 0#5 1#5) := by decide

theorem test_decode_cmpi :
    decode false 0b0001011100011011#16 = .ok (.cmpi 27#5 24#5) := by decide

theorem test_decode_lsl :
    decode false 0b0001100000010011#16 = .ok (.lsl 19#5 0#5) := by decide

theorem test_decode_lsli :
    decode false 0b0001110011011001#16 = .ok (.lsli 25#5 6#5) := by decide

theorem test_decode_lsr :
    decode false 0b0010000000010011#16 = .ok (.lsr 19#5 0#5) := by decide

theorem test_decode_lsri :
    decode false 0b0010010011000001#16 = .ok (.lsri 1#5 6#5) := by decide

theorem test_decode_asr :
    decode false 0b0010100000010011#16 = .ok (.asr 19#5 0#5) := by decide

theorem test_decode_asri :
    decode false 0b0010110011011101#16 = .ok (.asri 29#5 6#5) := by decide

theorem test_decode_mov :
    decode false 0b0011001001101000#16 = .ok (.mov 8#5 19#5) := by decide

theorem test_decode_movi :
    decode false 0b0011010011101011#16 = .ok (.movi 11#5 7#5) := by decide

theorem test_decode_and :
    decode false 0b0011100000100000#16 = .ok (.and 0#5 1#5) := by decide

theorem test_decode_andn :
    decode false 0b0011110000100000#16 = .ok (.andn 0#5 1#5) := by decide

theorem test_decode_or :
    decode false 0b0100001100111000#16 = .ok (.or 24#5 25#5) := by decide

theorem test_decode_xor :
    decode false 0b0100010001000001#16 = .ok (.xor 1#5 2#5) := by decide

theorem test_decode_bgen :
    decode false 0b0100100011000111#16 = .ok (.bgen 7#5 6#5) := by decide

theorem test_decode_ext8d :
    decode false 0b0100111100000100#16 = .ok (.ext8d 4#5 24#5) := by decide

theorem test_decode_skp0 :
    decode false 0b0101000011101011#16 = .ok (.skp0 11#5 7#5) := by decide

theorem test_decode_skp1 :
    decode false 0b0101011010101011#16 = .ok (.skp1 11#5 21#5) := by decide

theorem test_decode_ld :
    decode false 0b0101101101100000#16 = .ok (.ld 0#5 27#5) := by decide

theorem test_decode_st :
    decode false 0b0101110000011011#16 = .ok (.st 27#5 0#5) := by decide

theorem test_decode_sts8s :
    decode false 0b0110000000001101#16 = .ok (.sts8s 13#10) := by decide

theorem test_decode_sts16s :
    decode false 0b0110010000001110#16 = .ok (.sts16s 7#9) := by decide

theorem test_decode_ext16d :
    decode false 0b0110101110011011#16 = .ok (.ext16d 27#5 28#5) := by decide

theorem test_decode_movhi :
    decode false 0b0110111011100011#16 = .ok (.movhi 3#5 23#5) := by decide

theorem test_decode_ext8s :
    decode false 0b0111010001100110#16 = .ok (.ext8s 6#5 3#2) := by decide

theorem test_decode_ext16s :
    decode false 0b0111010011010011#16 = .ok (.ext16s 19#5 1#1) := by decide

theorem test_decode_st8s :
    decode false 0b0111011001100100#16 = .ok (.st8s 4#5 3#2) := by decide

theorem test_decode_st16s :
    decode false 0b0111011011000100#16 = .ok (.st16s 4#5 1#1) := by decide

theorem test_decode_save :
    decode false 0b0111100000010111#16 = .ok (.save 23#8) := by decide

theorem test_decode_trap :
    decode false 0b0111100100111111#16 = .ok (.trap 63#6) := by decide

theorem test_decode_not :
    decode false 0b0111110000001100#16 = .ok (.not 12#5) := by decide

theorem test_decode_neg :
    decode false 0b0111110000101100#16 = .ok (.neg 12#5) := by decide

theorem test_decode_abs :
    decode false 0b0111110001000110#16 = .ok (.abs 6#5) := by decide

theorem test_decode_sext8 :
    decode false 0b0111110001101011#16 = .ok (.sext8 11#5) := by decide

theorem test_decode_sext16 :
    decode false 0b0111110010000011#16 = .ok (.sext16 3#5) := by decide

theorem test_decode_rlc :
    decode false 0b0111110010111100#16 = .ok (.rlc 28#5) := by decide

theorem test_decode_rrc :
    decode false 0b0111110011011100#16 = .ok (.rrc 28#5) := by decide

theorem test_decode_swap :
    decode false 0b0111110100000011#16 = .ok (.swap 3#5) := by decide

theorem test_decode_restore :
    decode false 0b0111110110100000#16 = .ok (.restore) := by decide

theorem test_decode_tret :
    decode false 0b0111110111001111#16 = .ok (.tret 15#5) := by decide

theorem test_decode_st8d :
    decode false 0b0111111000001011#16 = .ok (.st8d 11#5) := by decide

theorem test_decode_st16d :
    decode false 0b0111111000101011#16 = .ok (.st16d 11#5) := by decide

theorem test_decode_fill8 :
    decode false 0b0111111001001011#16 = .ok (.fill8 11#5) := by decide

theorem test_decode_fill16 :
    decode false 0b0111111001111011#16 = .ok (.fill16 27#5) := by decide

theorem test_decode_mstep :
    decode false 0b0111111010000001#16 = .ok (.mstep 1#5) := by decide

theorem test_decode_mul :
    decode true 0b0111111010111101#16 = .ok (.mul 29#5) := by decide

theorem test_decode_skprz :
    decode false 0b0111111011001011#16 = .ok (.skprz 11#5) := by decide

theorem test_decode_skps :
    decode false 0b0111111011100011#16 = .ok (.skps 3#4) := by decide

theorem test_decode_wrctl :
    decode false 0b0111111100000111#16 = .ok (.wrctl 7#5) := by decide

theorem test_decode_rdctl :
    decode false 0b0111111100100111#16 = .ok (.rdctl 7#5) := by decide

theorem test_decode_skprnz :
    decode false 0b0111111101000011#16 = .ok (.skprnz 3#5) := by decide

theorem test_decode_jmp :
    decode false 0b0111111111001111#16 = .ok (.jmp 15#5) := by decide

theorem test_decode_call :
    decode false 0b0111111111100000#16 = .ok (.call 0#5) := by decide

theorem test_decode_br :
    decode false 0b1000011111110111#16 = .ok (.br 2039#11) := by decide

theorem test_decode_bsr :
    decode false 0b1000100001111111#16 = .ok (.bsr 127#11) := by decide

theorem test_decode_pfx :
    decode false 0b1001100000000011#16 = .ok (.pfx 3#11) := by decide

theorem test_decode_stp :
    decode false 0b1010100001100011#16 = .ok (.stp 3#5 2#2 3#5) := by decide

theorem test_decode_ldp :
    decode false 0b1011100001101011#16 = .ok (.ldp 11#5 2#2 3#5) := by decide

theorem test_decode_sts :
    decode false 0b1100001000111101#16 = .ok (.sts 29#5 17#8) := by decide

theorem test_decode_lds :
    decode false 0b1110000001101001#16 = .ok (.lds 9#5 3#8) := by decide

/-- R147. -/
theorem test_rejects_empty_op6 :
    decode false 0b0111000000000000#16 = .error .emptyRow := by decide

/-- R311. -/
theorem test_rejects_skps_14 :
    decode false 0b0111111011101110#16 = .error .skpsCondition := by decide

/-- R140. -/
theorem test_rejects_sts16s_low_bit :
    decode false 0b0110010000000001#16 = .error .mustBeZero := by decide

/-- R140. -/
theorem test_rejects_restore_field :
    decode false 0b0111110110100001#16 = .error .mustBeZero := by decide

/-- R140. -/
theorem test_rejects_trap_bit_6 :
    decode false 0b0111100101000000#16 = .error .mustBeZero := by decide

/-- R140. -/
theorem test_rejects_ext16s_bit_5 :
    decode false 0b0111010010100000#16 = .error .mustBeZero := by decide

/-- 95 A37. -/
theorem test_rejects_mul_absent :
    decode false 0b0111111010100001#16 = .error .mulAbsent := by decide

/-- R147. -/
theorem test_rejects_between_bsr_and_pfx :
    decode false 0b1001000000000000#16 = .error .emptyRow := by decide

/-- D38, R183. -/
theorem test_fetch_is_little_endian :
    decodeBytes false [0xD5#8, 0x04#8] = .ok (.addi 21#5 6#5, []) := by decide

/-! ## One step of each instruction -/

/-- A2. -/
theorem test_add_overflows :
    leaves (exec (.add 1#5 2#5) (put (put State.reset 1#5 0x7FFFFFFF#32) 2#5 1#32)) (fun t =>
      reads t 1#5 0x80000000#32 && flagsAre t 0b1100#4 && t.pc == 0x1002#33) = true := by decide

/-- A4: V, Z and C together. -/
theorem test_add_carries :
    leaves (exec (.add 1#5 2#5) (put (put State.reset 1#5 0x80000000#32) 2#5 0x80000000#32)) (fun t =>
      reads t 1#5 0#32 && flagsAre t 0b0111#4 && t.pc == 0x1002#33) = true := by decide

/-- A8. -/
theorem test_addi_unprefixed :
    leaves (exec (.addi 1#5 31#5) (put State.reset 1#5 0xFFFFFFE1#32)) (fun t =>
      reads t 1#5 0#32 && flagsAre t 0b0011#4 && t.pc == 0x1002#33) = true := by decide

/-- A10: 0xFFFF is zero-extended. -/
theorem test_addi_prefixed :
    leaves (exec (.addi 1#5 31#5) (put (afterPfx State.reset 0x7FF#11) 1#5 1#32)) (fun t =>
      reads t 1#5 0x10000#32 && !t.p && flagsAre t 0b0000#4 && t.pc == 0x1002#33) = true := by decide

/-- A12. -/
theorem test_sub_borrows :
    leaves (exec (.sub 1#5 2#5) (put (put State.reset 1#5 3#32) 2#5 5#32)) (fun t =>
      reads t 1#5 0xFFFFFFFE#32 && flagsAre t 0b1001#4 && t.pc == 0x1002#33) = true := by decide

/-- A15. -/
theorem test_sub_overflows :
    leaves (exec (.sub 1#5 2#5) (put (put State.reset 1#5 0#32) 2#5 0x80000000#32)) (fun t =>
      reads t 1#5 0x80000000#32 && flagsAre t 0b1101#4 && t.pc == 0x1002#33) = true := by decide

/-- A17. -/
theorem test_subi_wraps :
    leaves (exec (.subi 1#5 1#5) (put State.reset 1#5 0#32)) (fun t =>
      reads t 1#5 0xFFFFFFFF#32 && flagsAre t 0b1001#4 && t.pc == 0x1002#33) = true := by decide

/-- A22. -/
theorem test_cmp_signed :
    leaves (exec (.cmp 0#5 1#5) (put (put State.reset 0#5 0x7FFFFFFF#32) 1#5 0xFFFFFFFF#32)) (fun t =>
      reads t 0#5 0x7FFFFFFF#32 && flagsAre t 0b1101#4 && t.pc == 0x1002#33) = true := by decide

/-- A23. -/
theorem test_cmpi_equal :
    leaves (exec (.cmpi 27#5 24#5) (put State.reset 27#5 24#32)) (fun t =>
      reads t 27#5 24#32 && flagsAre t 0b0010#4 && t.pc == 0x1002#33) = true := by decide

/-- A25: the flags stay. -/
theorem test_abs_negative :
    leaves (exec (.abs 6#5) (put (withStatus State.reset 0x7EEA#16) 6#5 0xFFFFFFFB#32)) (fun t =>
      reads t 6#5 5#32 && flagsAre t 0b1010#4 && t.pc == 0x1002#33) = true := by decide

/-- A26. -/
theorem test_abs_most_negative :
    leaves (exec (.abs 6#5) (put State.reset 6#5 0x80000000#32)) (fun t =>
      reads t 6#5 0x80000000#32 && t.pc == 0x1002#33) = true := by decide

/-- A28. -/
theorem test_neg_one :
    leaves (exec (.neg 12#5) (put State.reset 12#5 1#32)) (fun t =>
      reads t 12#5 0xFFFFFFFF#32 && t.pc == 0x1002#33) = true := by decide

/-- A31. -/
theorem test_mstep_adds :
    leaves (exec (.mstep 1#5) (put (put State.reset 0#5 0x80000001#32) 1#5 5#32)) (fun t =>
      reads t 0#5 7#32 && reads t 1#5 5#32 && t.pc == 0x1002#33) = true := by decide

/-- A33: the old %r0 is also the addend. -/
theorem test_mstep_of_register_zero :
    leaves (exec (.mstep 0#5) (put State.reset 0#5 0xC0000000#32)) (fun t =>
      reads t 0#5 0x40000000#32 && t.pc == 0x1002#33) = true := by decide

/-- A35. -/
theorem test_mul_low_halves :
    leaves (exec (.mul 29#5) (put (put State.reset 0#5 0x00010003#32) 29#5 0xABCD0005#32)) (fun t =>
      reads t 0#5 15#32 && t.pc == 0x1002#33) = true := by decide

/-- A37. -/
theorem test_mul_absent :
    faults (exec (.mul 1#5) (resetOf .nreg256 false [])) (.unassigned .mulAbsent) = true := by decide

/-- B5: the word 0x38A0 without PFX names a register. -/
theorem test_and_register :
    leaves (exec (.and 0#5 5#5) (put (put State.reset 0#5 0xFFFFFFFF#32) 5#5 0xAAAA0000#32)) (fun t =>
      reads t 0#5 0xAAAA0000#32 && flagsAre t 0b1000#4 && t.pc == 0x1002#33) = true := by decide

/-- B4: the same word after PFX 0 names a constant. -/
theorem test_and_constant :
    leaves (exec (.and 0#5 5#5) (put (put (afterPfx State.reset 0#11) 0#5 0xFFFFFFFF#32) 5#5 0xAAAA0000#32)) (fun t =>
      reads t 0#5 5#32 && flagsAre t 0b0000#4 && t.pc == 0x1002#33) = true := by decide

/-- B7. -/
theorem test_andn_constant :
    leaves (exec (.andn 0#5 0#5) (put (afterPfx State.reset 0x200#11) 0#5 0xFFFFFFFF#32)) (fun t =>
      reads t 0#5 0xFFFFBFFF#32 && flagsAre t 0b1000#4 && t.pc == 0x1002#33) = true := by decide

/-- B8, with V and C set before: they stay. -/
theorem test_or_register :
    leaves (exec (.or 24#5 25#5) (put (put (withStatus State.reset 0x7EE5#16) 24#5 0x80000000#32) 25#5 1#32)) (fun t =>
      reads t 24#5 0x80000001#32 && flagsAre t 0b1101#4 && t.pc == 0x1002#33) = true := by decide

/-- B11. -/
theorem test_xor_register :
    leaves (exec (.xor 1#5 2#5) (put (put State.reset 1#5 0x12345678#32) 2#5 0x12345678#32)) (fun t =>
      reads t 1#5 0#32 && flagsAre t 0b0010#4 && t.pc == 0x1002#33) = true := by decide

/-- B13. -/
theorem test_not_keeps_flags :
    leaves (exec (.not 12#5) (put (withStatus State.reset 0x7EE2#16) 12#5 0#32)) (fun t =>
      reads t 12#5 0xFFFFFFFF#32 && flagsAre t 0b0010#4 && t.pc == 0x1002#33) = true := by decide

/-- B14. -/
theorem test_mov :
    leaves (exec (.mov 8#5 19#5) (put State.reset 19#5 0xCAFEBABE#32)) (fun t =>
      reads t 8#5 0xCAFEBABE#32 && t.pc == 0x1002#33) = true := by decide

/-- B16. -/
theorem test_movi_prefixed :
    leaves (exec (.movi 11#5 13#5) (put (afterPfx State.reset 9#11) 11#5 0xFFFFFFFF#32)) (fun t =>
      reads t 11#5 0x12D#32 && t.pc == 0x1002#33) = true := by decide

/-- B18. -/
theorem test_movhi_keeps_low_half :
    leaves (exec (.movhi 3#5 23#5) (put State.reset 3#5 0xAAAA5555#32)) (fun t =>
      reads t 3#5 0x00175555#32 && t.pc == 0x1002#33) = true := by decide

/-- B23. -/
theorem test_bgen_31 :
    leaves (exec (.bgen 7#5 31#5) State.reset) (fun t =>
      reads t 7#5 0x80000000#32 && t.pc == 0x1002#33) = true := by decide

/-- B24. -/
theorem test_sext8 :
    leaves (exec (.sext8 11#5) (put State.reset 11#5 0x12345680#32)) (fun t =>
      reads t 11#5 0xFFFFFF80#32 && t.pc == 0x1002#33) = true := by decide

/-- B26. -/
theorem test_sext16 :
    leaves (exec (.sext16 3#5) (put State.reset 3#5 0x12348000#32)) (fun t =>
      reads t 3#5 0xFFFF8000#32 && t.pc == 0x1002#33) = true := by decide

/-- B28. -/
theorem test_swap :
    leaves (exec (.swap 1#5) (put State.reset 1#5 0x12345678#32)) (fun t =>
      reads t 1#5 0x56781234#32 && t.pc == 0x1002#33) = true := by decide

/-- B33: the selector is read before the write. -/
theorem test_ext8d_own_selector :
    leaves (exec (.ext8d 4#5 4#5) (put State.reset 4#5 0x44332211#32)) (fun t =>
      reads t 4#5 0x22#32 && t.pc == 0x1002#33) = true := by decide

/-- B34. -/
theorem test_ext8s_high :
    leaves (exec (.ext8s 6#5 3#2) (put State.reset 6#5 0x44332211#32)) (fun t =>
      reads t 6#5 0x44#32 && t.pc == 0x1002#33) = true := by decide

/-- B37. -/
theorem test_ext16d_ignores_bit_0 :
    leaves (exec (.ext16d 27#5 28#5) (put (put State.reset 27#5 0x44332211#32) 28#5 0x1001#32)) (fun t =>
      reads t 27#5 0x2211#32 && t.pc == 0x1002#33) = true := by decide

/-- B38. -/
theorem test_ext16s_high :
    leaves (exec (.ext16s 19#5 1#1) (put State.reset 19#5 0x44332211#32)) (fun t =>
      reads t 19#5 0x4433#32 && t.pc == 0x1002#33) = true := by decide

/-- B40. -/
theorem test_fill8 :
    leaves (exec (.fill8 11#5) (put State.reset 11#5 0x123456AB#32)) (fun t =>
      reads t 0#5 0xABABABAB#32 && reads t 11#5 0x123456AB#32 && t.pc == 0x1002#33) = true := by decide

/-- B42. -/
theorem test_fill16 :
    leaves (exec (.fill16 27#5) (put State.reset 27#5 0x1234BEEF#32)) (fun t =>
      reads t 0#5 0xBEEFBEEF#32 && t.pc == 0x1002#33) = true := by decide

/-- SH4: the count is 33 modulo 32. -/
theorem test_lsl_count_33 :
    leaves (exec (.lsl 19#5 0#5) (put (put State.reset 19#5 1#32) 0#5 0x21#32)) (fun t =>
      reads t 19#5 2#32 && t.pc == 0x1002#33) = true := by decide

/-- SH1. -/
theorem test_lsli_keeps_flags :
    leaves (exec (.lsli 25#5 6#5) (put (withStatus State.reset 0x7EEF#16) 25#5 0x03000001#32)) (fun t =>
      reads t 25#5 0xC0000040#32 && flagsAre t 0b1111#4 && t.pc == 0x1002#33) = true := by decide

/-- SH9. -/
theorem test_lsr_count_63 :
    leaves (exec (.lsr 19#5 0#5) (put (put State.reset 19#5 0x80000000#32) 0#5 0x3F#32)) (fun t =>
      reads t 19#5 1#32 && t.pc == 0x1002#33) = true := by decide

/-- SH7. -/
theorem test_lsri :
    leaves (exec (.lsri 1#5 6#5) (put State.reset 1#5 0x80000040#32)) (fun t =>
      reads t 1#5 0x02000001#32 && t.pc == 0x1002#33) = true := by decide

/-- SH14. -/
theorem test_asr :
    leaves (exec (.asr 19#5 0#5) (put (put State.reset 19#5 0xFFFFFF00#32) 0#5 0x24#32)) (fun t =>
      reads t 19#5 0xFFFFFFF0#32 && t.pc == 0x1002#33) = true := by decide

/-- SH11. -/
theorem test_asri_31 :
    leaves (exec (.asri 29#5 31#5) (put State.reset 29#5 0x80000000#32)) (fun t =>
      reads t 29#5 0xFFFFFFFF#32 && t.pc == 0x1002#33) = true := by decide

/-- SH16. -/
theorem test_rlc_takes_carry_in :
    leaves (exec (.rlc 28#5) (put (withStatus State.reset 0x7EEF#16) 28#5 1#32)) (fun t =>
      reads t 28#5 3#32 && flagsAre t 0b1110#4 && t.pc == 0x1002#33) = true := by decide

/-- SH15. -/
theorem test_rlc_puts_carry_out :
    leaves (exec (.rlc 28#5) (put State.reset 28#5 0x80000000#32)) (fun t =>
      reads t 28#5 0#32 && flagsAre t 0b0001#4 && t.pc == 0x1002#33) = true := by decide

/-- SH18. -/
theorem test_rrc_takes_carry_in :
    leaves (exec (.rrc 28#5) (put (withStatus State.reset 0x7EE1#16) 28#5 2#32)) (fun t =>
      reads t 28#5 0x80000001#32 && flagsAre t 0b0000#4 && t.pc == 0x1002#33) = true := by decide

/-- SH17. -/
theorem test_rrc_puts_carry_out :
    leaves (exec (.rrc 28#5) (put State.reset 28#5 1#32)) (fun t =>
      reads t 28#5 0#32 && flagsAre t 0b0001#4 && t.pc == 0x1002#33) = true := by decide

/-- M2. -/
theorem test_ld_ignores_low_bits :
    leaves (exec (.ld 0#5 27#5) (put (poke State.reset 0x2004 0x07060504#32) 27#5 0x2007#32)) (fun t =>
      reads t 0#5 0x07060504#32 && t.pc == 0x1002#33) = true := by decide

/-- M4: K = 0x7FF is -1 word. -/
theorem test_ld_negative_offset :
    leaves (exec (.ld 0#5 27#5) (put (afterPfx (poke State.reset 0x1FFC 0xFFFEFDFC#32) 0x7FF#11) 27#5 0x2000#32)) (fun t =>
      reads t 0#5 0xFFFEFDFC#32 && t.pc == 0x1002#33) = true := by decide

/-- M12: -32768 words. -/
theorem test_ldp_offset_0x8000 :
    leaves (exec (.ldp 11#5 3#2 0#5) (put (afterPfx (poke State.reset 0x2000 0x03020100#32) 0x400#11) 19#5 0x22000#32)) (fun t =>
      reads t 11#5 0x03020100#32 && t.pc == 0x1002#33) = true := by decide

/-- M16. -/
theorem test_lds_largest_offset :
    leaves (exec (.lds 9#5 255#8) (put (poke State.reset 0x23FC 0x55667788#32) 14#5 0x2001#32)) (fun t =>
      reads t 9#5 0x55667788#32 && t.pc == 0x1002#33) = true := by decide

/-- M7. -/
theorem test_st_is_little_endian :
    leaves (exec (.st 27#5 0#5) (put (put State.reset 0#5 0x2000#32) 27#5 0xDDCCBBAA#32)) (fun t =>
      t.mem == [(0x2000, 0xAA#8), (0x2001, 0xBB#8), (0x2002, 0xCC#8), (0x2003, 0xDD#8)] && t.pc == 0x1002#33) = true := by decide

/-- M42. -/
theorem test_st_at_the_top :
    leaves (exec (.st 2#5 1#5) (put (put State.reset 1#5 0xFFFFFFFF#32) 2#5 0x01020304#32)) (fun t =>
      Memory.readWord t.mem 0xFFFFFFFC == 0x01020304#32 && t.mem.length == 4 && t.pc == 0x1002#33) = true := by decide

/-- M13. -/
theorem test_stp :
    leaves (exec (.stp 3#5 2#2 3#5) (put (put State.reset 18#5 0x2000#32) 3#5 0x11223344#32)) (fun t =>
      Memory.readWord t.mem 0x200C == 0x11223344#32 && t.mem.length == 4 && t.pc == 0x1002#33) = true := by decide

/-- M17. -/
theorem test_sts :
    leaves (exec (.sts 29#5 17#8) (put (put State.reset 14#5 0x2000#32) 29#5 0xA5A5A5A5#32)) (fun t =>
      Memory.readWord t.mem 0x2044 == 0xA5A5A5A5#32 && t.mem.length == 4 && t.pc == 0x1002#33) = true := by decide

/-- M23: the offset is 2 words, the lane still 1. -/
theorem test_st8d_lane_from_base :
    leaves (exec (.st8d 11#5) (put (put (afterPfx State.reset 2#11) 11#5 0x2001#32) 0#5 0x44332211#32)) (fun t =>
      t.mem == [(0x2009, 0x22#8)] && t.pc == 0x1002#33) = true := by decide

/-- M29. -/
theorem test_st8s_lane_from_field :
    leaves (exec (.st8s 4#5 0#2) (put (put State.reset 4#5 0x2003#32) 0#5 0x44332211#32)) (fun t =>
      t.mem == [(0x2000, 0x11#8)] && t.pc == 0x1002#33) = true := by decide

/-- M26. -/
theorem test_st16d_ignores_bit_0 :
    leaves (exec (.st16d 11#5) (put (put State.reset 11#5 0x2003#32) 0#5 0x44332211#32)) (fun t =>
      t.mem == [(0x2002, 0x33#8), (0x2003, 0x44#8)] && t.pc == 0x1002#33) = true := by decide

/-- M31. -/
theorem test_st16s :
    leaves (exec (.st16s 7#5 1#1) (put (put State.reset 7#5 0x2000#32) 0#5 0x44332211#32)) (fun t =>
      t.mem == [(0x2002, 0x33#8), (0x2003, 0x44#8)] && t.pc == 0x1002#33) = true := by decide

/-- M35. -/
theorem test_sts8s_unaligned_sp :
    leaves (exec (.sts8s 2#10) (put (put State.reset 14#5 0x2003#32) 0#5 0x44332211#32)) (fun t =>
      t.mem == [(0x2006, 0x33#8)] && t.pc == 0x1002#33) = true := by decide

/-- M36. -/
theorem test_sts16s :
    leaves (exec (.sts16s 7#9) (put (put State.reset 14#5 0x2000#32) 0#5 0x44332211#32)) (fun t =>
      t.mem == [(0x200E, 0x33#8), (0x200F, 0x44#8)] && t.pc == 0x1002#33) = true := by decide

/-- F1. -/
theorem test_pfx :
    leaves (exec (.pfx 3#11) State.reset) (fun t =>
      t.p && t.k == 3#11 && t.pc == 0x1002#33) = true := by decide

/-- F3. -/
theorem test_pfx_after_pfx :
    faults (exec (.pfx 4#11) (afterPfx State.reset 3#11)) .consecutivePfx = true := by decide

/-- F6. -/
theorem test_br_backward :
    leaves (exec (.br 0x7F7#11) State.reset) (fun t =>
      t.bt == some 0xFF0#33 && t.pc == 0x1002#33) = true := by decide

/-- F13. -/
theorem test_br_in_a_delay_slot :
    faults (exec (.br 0x0E#11) (inSlot State.reset 0x1010#33)) .forbiddenInDelaySlot = true := by decide

/-- F5, the delay slot. -/
theorem test_delay_slot_goes_to_the_target :
    leaves (exec (.addi 1#5 1#5) (inSlot State.reset 0x1010#33)) (fun t =>
      reads t 1#5 1#32 && t.bt == none && t.pc == 0x1010#33) = true := by decide

/-- F8. -/
theorem test_bsr_links :
    leaves (exec (.bsr 0x07F#11) State.reset) (fun t =>
      reads t 15#5 0x802#32 && t.bt == some 0x1100#33 && t.pc == 0x1002#33) = true := by decide

/-- F10: bit 31 becomes pc bit 32. -/
theorem test_jmp_33_bits :
    leaves (exec (.jmp 1#5) (put State.reset 1#5 0x80000800#32)) (fun t =>
      t.bt == some 0x100001000#33 && t.pc == 0x1002#33) = true := by decide

/-- F12: the target is read before the link is written. -/
theorem test_call_through_o7 :
    leaves (exec (.call 15#5) (put State.reset 15#5 0x1800#32)) (fun t =>
      reads t 15#5 0x802#32 && t.bt == some 0x3000#33 && t.pc == 0x1002#33) = true := by decide

/-- F17. -/
theorem test_skp0_skips :
    leaves (exec (.skp0 11#5 7#5) (put (poke State.reset 0x1002 0x0420#32) 11#5 0x7F#32)) (fun t =>
      t.pc == 0x1004#33) = true := by decide

/-- F16. -/
theorem test_skp0_does_not_skip :
    leaves (exec (.skp0 11#5 7#5) (put State.reset 11#5 0x80#32)) (fun t =>
      t.pc == 0x1002#33) = true := by decide

/-- F18. -/
theorem test_skp1_skips :
    leaves (exec (.skp1 11#5 21#5) (put State.reset 11#5 0x00200000#32)) (fun t =>
      t.pc == 0x1004#33) = true := by decide

/-- F26. -/
theorem test_skprz_over_a_prefixed_pair :
    leaves (exec (.skprz 1#5) (poke State.reset 0x1002 0x0503981F#32)) (fun t =>
      t.pc == 0x1006#33) = true := by decide

/-- F21. -/
theorem test_skprz_does_not_skip :
    leaves (exec (.skprz 11#5) (put State.reset 11#5 5#32)) (fun t =>
      t.pc == 0x1002#33) = true := by decide

/-- F23. -/
theorem test_skprnz_skips :
    leaves (exec (.skprnz 3#5) (put State.reset 3#5 0x80000000#32)) (fun t =>
      t.pc == 0x1004#33) = true := by decide

/-- F24. -/
theorem test_skps_ne_skips :
    leaves (exec (.skps 3#4) State.reset) (fun t =>
      t.pc == 0x1004#33) = true := by decide

/-- F29. -/
theorem test_skps_14 :
    faults (exec (.skps 14#4) State.reset) (.unassigned .skpsCondition) = true := by decide

/-- W1: the new %fp is the old %sp. -/
theorem test_save :
    leaves (exec (.save 23#8) (put State.reset 14#5 0x10000#32)) (fun t =>
      reads t 14#5 0x0000FFA4#32 && reads t 30#5 0x10000#32 && t.status.cwp == 13#5 && t.pc == 0x1002#33) = true := by decide

/-- W8. -/
theorem test_save_underflows :
    leaves (exec (.save 4#8) (put (poke (withStatus State.reset 0x8410#16) 4 0x900#32) 14#5 0x8000#32)) (fun t =>
      reads t 14#5 0x7FF0#32 && reads t 15#5 0x801#32 && t.status.toBits == 0x0200#16 && t.istatus.toBits == 0x8400#16 && t.pc == 0x1200#33) = true := by decide

/-- W4. -/
theorem test_restore :
    leaves (exec (.restore) (withStatus State.reset 0x7ED0#16)) (fun t =>
      t.status.cwp == 14#5 && t.pc == 0x1002#33) = true := by decide

/-- W14. -/
theorem test_restore_overflows :
    leaves (exec (.restore) (poke (withStatus State.reset 0x86E0#16) 8 0xA00#32)) (fun t =>
      reads t 15#5 0x801#32 && t.status.toBits == 0x04E0#16 && t.istatus.toBits == 0x86F0#16 && t.pc == 0x1400#33) = true := by decide

/-- W16: taken with IE = 0. -/
theorem test_trap :
    leaves (exec (.trap 63#6) (poke (withStatus State.reset 0x0AE0#16) 0xFC 0x1234#32)) (fun t =>
      reads t 15#5 0x801#32 && t.status.toBits == 0x7ED0#16 && t.istatus.toBits == 0x0AE0#16 && t.pc == 0x2468#33) = true := by decide

/-- W18. -/
theorem test_trap_without_a_window :
    faults (exec (.trap 0#6) (withStatus State.reset 0x7E00#16)) .windowOutsideFile = true := by decide

/-- W17. -/
theorem test_tret :
    leaves (exec (.tret 15#5) (put (withStatus { State.reset with istatus := StatusReg.ofBits 0xFEE5#16 } 0x00D0#16) 15#5 0x2001#32)) (fun t =>
      t.status.toBits == 0xFEE5#16 && t.pc == 0x4002#33) = true := by decide

/-- W19. -/
theorem test_rdctl_status :
    leaves (exec (.rdctl 7#5) (withStatus State.reset 0xFEE5#16)) (fun t =>
      reads t 7#5 0xFEE5#32 && t.pc == 0x1002#33) = true := by decide

/-- W23: NREG = 512. -/
theorem test_rdctl_wvalid :
    leaves (exec (.rdctl 7#5) (afterPfx (resetOf .nreg512 true []) 2#11)) (fun t =>
      reads t 7#5 0x3C1#32 && t.pc == 0x1002#33) = true := by decide

/-- W29. -/
theorem test_wrctl_istatus :
    leaves (exec (.wrctl 7#5) (put (afterPfx State.reset 1#11) 7#5 0xFFFF8005#32)) (fun t =>
      t.istatus.toBits == 0x8005#16 && t.pc == 0x1002#33) = true := by decide

/-- W32. -/
theorem test_wrctl_status :
    leaves (exec (.wrctl 7#5) (put (poke State.reset 0x1002 0x3000#32) 7#5 0x82AF#32)) (fun t =>
      t.status.toBits == 0x82AF#16 && t.pc == 0x1002#33) = true := by decide

/-- I1. -/
theorem test_interrupt :
    leaves (step (poke { withStatus State.reset 0xFEE2#16 with irqs := [⟨true, 5#6⟩] } 0x14 0xC00#32)) (fun t =>
      reads t 15#5 0x800#32 && t.status.toBits == 0x0AD2#16 && t.istatus.toBits == 0xFEE2#16 && t.pc == 0x1800#33) = true := by decide

/-- A7, through the fetch. -/
theorem test_step_fetches_the_placed_word :
    leaves (step ((put State.reset 21#5 10#32).withFetchWord 16 0x04D5)) (fun t => reads t 21#5 16#32 && t.pc == 0x1002#33) = true := by decide

/-- 20_memory R109. -/
theorem test_own_store_is_not_executed :
    leaves (exec (.st 1#5 2#5) (put State.reset 2#5 0x1002#32)) (fun t => t.storedOver 0x1002#33) = true := by decide

/-! ## Witnesses: for each statement with hypotheses, a state and operands that meet them -/

/-- Memory absent from 0x2000 on. -/
def holed : State := resetOf .nreg256 true [⟨0x2000, 2 ^ 33⟩]

/-- No memory at all. -/
def bare : State := resetOf .nreg256 true [⟨0, 2 ^ 33⟩]

/-- In the lowest window of the file, exceptions off. -/
def lowest : State := withStatus State.reset 0x7E00#16

theorem witness_DecodeOfEncodeIsTheInstruction :
    Instr.wellFormed false (.skps 13#4) = true ∧ Instr.wellFormed true (.mul 31#5) = true ∧
      Instr.wellFormed false (.lds 31#5 255#8) = true := by decide

theorem witness_EncodeOfDecodeIsTheWord :
    decode false 0x0000#16 = .ok (.add 0#5 0#5) ∧ decode false 0xFFFF#16 = .ok (.lds 31#5 255#8) ∧
      decode true 0x7EBF#16 = .ok (.mul 31#5) := by decide

theorem witness_DecoderRejectsExactlyTheUnassignedWords :
    decode true 0x7400#16 = .ok (.ext8s 0#5 0#2) ∧ decode true 0x7500#16 = .error .emptyRow ∧
      decode true 0x6401#16 = .error .mustBeZero ∧ decode false 0x7EA0#16 = .error .mulAbsent ∧
      decode true 0x7EEF#16 = .error .skpsCondition := by decide

/-- SKPS 13 at `pc`. -/
def holdsSkps : State := State.reset.withFetchWord 16 0x7EED

theorem witness_InstructionBytesAreFetchedLittleEndian :
    Instr.wellFormed holdsSkps.cfg.hasMul (.skps 13#4) = true ∧
      Memory.readByte holdsSkps.mem 0x1000 = (encode (.skps 13#4)).extractLsb' 0 8 ∧
      Memory.readByte holdsSkps.mem 0x1001 = (encode (.skps 13#4)).extractLsb' 8 8 ∧
      populatedRange holdsSkps.cfg holdsSkps.pc.toNat 2 = true ∧ holdsSkps.storedOver holdsSkps.pc = false := by decide

theorem witness_StepRunsTheDecodedInstruction :
    holdsSkps.acceptsInterrupt = false ∧
      State.acceptsInterrupt { withStatus holdsSkps 0x8AE0#16 with irqs := [⟨true, 5#6⟩] } = false ∧
      populatedRange holdsSkps.cfg holdsSkps.pc.toNat 2 = true ∧ holdsSkps.storedOver holdsSkps.pc = false ∧
      decode holdsSkps.cfg.hasMul
        (Memory.readByte holdsSkps.mem (holdsSkps.pc.toNat + 1) ++ Memory.readByte holdsSkps.mem holdsSkps.pc.toNat) =
          .ok (.skps 13#4) := by decide

theorem witness_StepStopsWhereThereIsNothingToRun :
    (bare.acceptsInterrupt = false ∧ populatedRange bare.cfg bare.pc.toNat 2 = false) ∧
    (State.storedOver { State.reset with written := [0x1001] } 0x1000#33 = true ∧
      State.storedOver { State.reset with written := [0xFFF, 0x1002] } 0x1000#33 = false) ∧
    decode true (Memory.readByte (State.reset.withFetchWord 16 0x7EEE).mem 0x1001 ++
      Memory.readByte (State.reset.withFetchWord 16 0x7EEE).mem 0x1000) = .error .skpsCondition := by decide

theorem witness_RegisterPlaces :
    State.reset.phys 7#5 = some 7 ∧ lowest.phys 8#5 = some 8 ∧ State.reset.phys 8#5 = some 232 ∧
      State.reset.phys 31#5 = some 255 ∧ (resetOf .nreg128 true []).phys 31#5 = some 127 ∧
      (resetOf .nreg512 true []).phys 31#5 = some 511 := by decide

theorem witness_WindowsOverlapInOutsOnly :
    Config.default.cwpMax = 14 ∧ physReg Config.default 1#5 8#5 = some 24 ∧ physReg Config.default 0#5 24#5 = some 24 ∧
      physReg Config.default 14#5 31#5 = some 255 ∧ physReg Config.default 0#5 16#5 = some 16 := by decide

theorem witness_WindowOutsideTheFileStops :
    (withStatus State.reset 0x7EF0#16).phys 8#5 = none ∧ (withStatus State.reset 0x7EF0#16).phys 7#5 = some 7 ∧
      8#5 ∈ accesses false (.add 1#5 8#5) ∧ 14#5 ∈ accesses false (.sts8s 0#10) := by decide

theorem witness_AdditionWritesSumAndFlags :
    State.reset.phys 31#5 = some 255 ∧ State.reset.phys 8#5 = some 232 ∧ State.reset.phys 7#5 = some 7 := by decide

theorem witness_SubtractionWritesDifferenceAndFlags :
    State.reset.phys 31#5 = some 255 ∧ State.reset.phys 8#5 = some 232 ∧ State.reset.phys 7#5 = some 7 := by decide

theorem witness_CompareWritesOnlyTheFlags :
    State.reset.phys 31#5 = some 255 ∧ State.reset.phys 8#5 = some 232 ∧ State.reset.phys 7#5 = some 7 := by decide

theorem witness_NegateAbsoluteAndNotWriteNoFlag :
    State.reset.phys 31#5 = some 255 ∧ lowest.phys 8#5 = some 8 := by decide

theorem witness_MultiplyStepDoublesAndAdds :
    State.reset.phys 31#5 = some 255 ∧ State.reset.phys 0#5 = some 0 := by decide

theorem witness_MovesAndConstants :
    State.reset.phys 31#5 = some 255 ∧ State.reset.phys 8#5 = some 232 ∧ State.reset.phys 7#5 = some 7 := by decide

theorem witness_SignExtensionsAndSwap :
    State.reset.phys 31#5 = some 255 ∧ lowest.phys 8#5 = some 8 := by decide

theorem witness_ExtractsSelectAByteOrHalfWord :
    State.reset.phys 31#5 = some 255 ∧ State.reset.phys 8#5 = some 232 ∧ State.reset.phys 7#5 = some 7 := by decide

theorem witness_FillsReplicateIntoRegisterZero :
    State.reset.phys 31#5 = some 255 ∧ State.reset.phys 0#5 = some 0 := by decide

theorem witness_ShiftsMoveByACountBelow32 :
    State.reset.phys 31#5 = some 255 ∧ State.reset.phys 8#5 = some 232 ∧ State.reset.phys 7#5 = some 7 := by decide

theorem witness_RotatesGoThroughTheCarry :
    State.reset.phys 31#5 = some 255 ∧ lowest.phys 8#5 = some 8 := by decide

theorem witness_ConditionsAfterCompareOrderTheOperands :
    State.reset.phys 1#5 = some 1 ∧ State.reset.phys 31#5 = some 255 ∧
      ∃ t, exec (.cmp 1#5 31#5) State.reset = .next t := ⟨by decide, by decide, _, rfl⟩

theorem witness_MultiplyOfLowHalves :
    State.reset.phys 29#5 = some 253 ∧ State.reset.phys 0#5 = some 0 ∧ State.reset.cfg.hasMul = true ∧
      (resetOf .nreg256 false []).cfg.hasMul = false ∧ (resetOf .nreg256 false []).phys 29#5 = some 253 := by decide

theorem witness_SwapAndSixteenStepsMultiply :
    let s := put (put State.reset 0#5 65535#32) 1#5 65535#32
    s.bt = none ∧ s.regs.get 0 = BitVec.ofNat 32 65535 ∧ s.regs.get 1 = BitVec.ofNat 32 65535 := by decide

theorem witness_LogicInBothForms :
    (State.reset.phys 31#5 = some 255 ∧ State.reset.p = false ∧ State.reset.phys 5#5 = some 5) ∧
    ((afterPfx State.reset 0x7FF#11).phys 31#5 = some 255 ∧ (afterPfx State.reset 0x7FF#11).p = true ∧
      prefixedConstant 0x7FF#11 31#5 = 65535 ∧ prefixedConstant 0#11 0#5 = 0) := by decide

theorem witness_RotatesComeBackToTheStart : State.reset.phys 28#5 = some 252 ∧ State.reset.bt = none := by decide

theorem witness_LoadsReadTheAlignedWord :
    let s := put State.reset 8#5 0x1FFF#32
    let t := put holed 8#5 0x1FFF#32
    (s.phys 31#5 = some 255 ∧ s.phys 8#5 = some 232 ∧ s.phys (BitVec.ofNat 5 (16 + 3)) = some 243 ∧
      s.phys 14#5 = some 238) ∧
    (populatedRange s.cfg (eaIndirect (s.regs.get 232) s.k).toNat 4 = true ∧
      populatedRange s.cfg (eaPointer (s.regs.get 243) s.k 31#5).toNat 4 = true ∧
      populatedRange s.cfg (eaStackWord (s.regs.get 238) 255#8).toNat 4 = true) ∧
    (populatedRange t.cfg (eaIndirect (t.regs.get 232) 0#11).toNat 4 = true ∧
      populatedRange t.cfg (eaIndirect (t.regs.get 232) 1#11).toNat 4 = false ∧
      populatedRange bare.cfg (eaPointer 0#32 0#11 0#5).toNat 4 = false ∧
      populatedRange bare.cfg (eaStackWord 0#32 0#8).toNat 4 = false) := by decide

theorem witness_WordStoresWriteFourBytes :
    State.reset.phys 31#5 = some 255 ∧ bare.phys 31#5 = some 255 ∧ bare.phys 0#5 = some 0 ∧
      bare.phys (BitVec.ofNat 5 (16 + 0)) = some 240 ∧ bare.phys 14#5 = some 238 ∧
      populatedRange State.reset.cfg (eaIndirect 0xFFFFFFFF#32 0#11).toNat 4 = true ∧
      populatedRange bare.cfg (eaIndirect 0xFFFFFFFF#32 0#11).toNat 4 = false := by decide

theorem witness_ByteStoresWriteTheirLane :
    State.reset.phys 0#5 = some 0 ∧ State.reset.phys 11#5 = some 235 ∧ State.reset.phys 14#5 = some 238 ∧
      populatedRange State.reset.cfg (eaByte (eaIndirect 0x2003#32 0#11) 3#2).toNat 1 = true ∧
      populatedRange holed.cfg (eaByte (eaIndirect 0x1FFC#32 0#11) 3#2).toNat 1 = true ∧
      populatedRange holed.cfg (eaByte (eaIndirect 0x2000#32 0#11) 0#2).toNat 1 = false ∧
      populatedRange holed.cfg (eaStackByte 0x2000#32 1023#10).toNat 1 = false := by decide

theorem witness_HalfWordStoresWriteTheirLane :
    State.reset.phys 0#5 = some 0 ∧ State.reset.phys 11#5 = some 235 ∧ State.reset.phys 14#5 = some 238 ∧
      populatedRange State.reset.cfg (eaHalf (eaIndirect 0x2003#32 0#11) 1#1).toNat 2 = true ∧
      populatedRange holed.cfg (eaHalf (eaIndirect 0x1FFC#32 0#11) 1#1).toNat 2 = true ∧
      populatedRange holed.cfg (eaHalf (eaIndirect 0x2000#32 0#11) 0#1).toNat 2 = false ∧
      populatedRange holed.cfg (eaStackHalf 0x2000#32 511#9).toNat 2 = false := by decide

theorem witness_OnlyStoresChangeMemory :
    isStore (.add 0#5 31#5) = false ∧ ∃ t, exec (.add 0#5 31#5) State.reset = .next t := ⟨by decide, _, rfl⟩

theorem witness_StoreThenLoadReturnsTheWord :
    State.reset.phys 31#5 = some 255 ∧ State.reset.phys 1#5 = some 1 ∧ State.reset.k = 0#11 ∧
      populatedRange State.reset.cfg (eaIndirect (State.reset.regs.get 1) 0#11).toNat 4 = true := by decide

theorem witness_FillThenStoreWritesTheByte :
    State.reset.phys 31#5 = some 255 ∧ State.reset.phys 1#5 = some 1 ∧ (1#5 : RegIx) ≠ 0#5 ∧
      populated State.reset.cfg (State.reset.regs.get 1).toNat = true := by decide

theorem witness_LoadThenExtractReadsTheByte :
    State.reset.phys 31#5 = some 255 ∧ State.reset.phys 1#5 = some 1 ∧ (31#5 : RegIx) ≠ 1#5 ∧ State.reset.k = 0#11 ∧
      populatedRange State.reset.cfg ((State.reset.regs.get 1).toNat / 4 * 4) 4 = true := by decide

theorem witness_PrefixSetsKAndP :
    (State.reset.bt = none ∧ State.reset.p = false) ∧
      (afterPfx State.reset 3#11).bt = none ∧ (afterPfx State.reset 3#11).p = true := by decide

theorem witness_PrefixLastsOneInstruction :
    (∀ imm11, Instr.add 0#5 31#5 ≠ .pfx imm11) ∧ (∃ t, exec (.add 0#5 31#5) State.reset = .next t) ∧
      ignoresPrefix (.save 0#8) = true := ⟨by simp, ⟨_, rfl⟩, by decide⟩

theorem witness_OtherInstructionsEndWithFinish :
    barredFromDelaySlot (.add 0#5 31#5) = false ∧ Instr.add 0#5 31#5 ≠ .restore ∧
      (∀ n, Instr.add 0#5 31#5 ≠ .save n) ∧ ∃ t, exec (.add 0#5 31#5) (inSlot State.reset 0x2000#33) = .next t :=
  ⟨by decide, by decide, by simp, _, rfl⟩

theorem witness_BranchesLeaveTheTargetPending :
    State.reset.bt = none ∧ State.reset.phys 15#5 = some 239 ∧ State.reset.phys 0#5 = some 0 := by decide

theorem witness_SkipsPassOverOneOrAPrefixedPair :
    State.reset.bt = none ∧ State.reset.phys 11#5 = some 235 ∧
    ((State.reset.regs.get 235).getLsbD 31 = false ∧ State.reset.regs.get 235 = 0#32) ∧
    (skpsCondition 0#4 State.reset.status.flags = some false ∧ skpsCondition 13#4 State.reset.status.flags = some true) ∧
    (populatedRange State.reset.cfg 0x1002 2 = true ∧ State.reset.storedOver 0x1002#33 = false) ∧
    (populatedRange bare.cfg 0x1002 2 = false ∧ bare.bt = none) ∧
    State.storedOver { State.reset with written := [0x1003] } 0x1002#33 = true := by decide

theorem witness_SkipConditionTable : State.reset.bt = none := by decide

theorem witness_TwelveInstructionsFaultInADelaySlot :
    (barredFromDelaySlot (.tret 0#5) = true ∧ (inSlot State.reset 0#33).bt ≠ none) ∧
      barredFromDelaySlot (.save 0#8) = false ∧ State.reset.bt = none := by decide

theorem witness_SaveOpensAWindow :
    (State.reset.phys 14#5 = some 238 ∧ physReg State.reset.cfg (State.reset.status.cwp - 1#5) 14#5 = some 222 ∧
      State.reset.status.cwp ≠ State.reset.wvalid.loLimit) ∧
    (let s := withStatus State.reset 0x7E10#16;
      s.phys 14#5 = some 30 ∧ physReg s.cfg (s.status.cwp - 1#5) 14#5 = some 14 ∧ s.status.cwp = s.wvalid.loLimit ∧
        s.status.ie = false) ∧
    (let s := withStatus State.reset 0x8210#16;
      s.phys 14#5 = some 30 ∧ s.status.ie = true ∧ s.status.ipri.toNat = 1) ∧
    (lowest.phys 14#5 = some 14 ∧ lowest.status.cwp = 0#5) := by decide

theorem witness_SaveAtTheLimitEntersTheUnderflowHandler :
    (let s := withStatus State.reset 0x8410#16;
      s.phys 14#5 = some 30 ∧ physReg s.cfg (s.status.cwp - 1#5) 14#5 = some 14 ∧
        physReg s.cfg (s.status.cwp - 1#5) 15#5 = some 15 ∧ s.status.cwp = s.wvalid.loLimit ∧ s.status.ie = true ∧
        1 < s.status.ipri.toNat ∧ populatedRange s.cfg (s.cfg.vecBase + 4#32).toNat 4 = true) ∧
    (let s := withStatus bare 0x8410#16;
      s.phys 14#5 = some 30 ∧ s.status.cwp = s.wvalid.loLimit ∧
        populatedRange s.cfg (s.cfg.vecBase + 4#32).toNat 4 = false) := by decide

theorem witness_RestoreClosesAWindow :
    lowest.status.cwp ≠ lowest.wvalid.hiLimit ∧
    (State.reset.status.cwp = State.reset.wvalid.hiLimit ∧ State.reset.status.ie = false) ∧
    (withStatus State.reset 0x84E0#16).status.ipri.toNat = 2 := by decide

theorem witness_RestoreAtTheLimitEntersTheOverflowHandler :
    (let s := withStatus State.reset 0x86E0#16;
      s.phys 15#5 = some 239 ∧ s.status.cwp = s.wvalid.hiLimit ∧ s.status.ie = true ∧ 2 < s.status.ipri.toNat ∧
        populatedRange s.cfg (s.cfg.vecBase + 8#32).toNat 4 = true) ∧
    (let s := withStatus bare 0x86E0#16;
      s.phys 15#5 = some 239 ∧ s.status.cwp = s.wvalid.hiLimit ∧
        populatedRange s.cfg (s.cfg.vecBase + 8#32).toNat 4 = false) := by decide

theorem witness_SaveThenRestoreKeepsTheCallersRegisters :
    State.reset.phys 14#5 = some 238 ∧ physReg State.reset.cfg (State.reset.status.cwp - 1#5) 14#5 = some 222 ∧
      State.reset.status.ie = false ∧ State.reset.phys 31#5 = some 255 := by decide

theorem witness_TrapEntersItsHandler :
    (State.reset.bt = none ∧ physReg State.reset.cfg (State.reset.status.cwp - 1#5) 15#5 = some 223 ∧
      populatedRange State.reset.cfg (State.reset.cfg.vecBase + BitVec.ofNat 32 (4 * 63)).toNat 4 = true) ∧
    (physReg bare.cfg (bare.status.cwp - 1#5) 15#5 = some 223 ∧
      populatedRange bare.cfg (bare.cfg.vecBase + BitVec.ofNat 32 (4 * 0)).toNat 4 = false) ∧
    (lowest.bt = none ∧ lowest.status.cwp = 0#5) ∧
    (let s := withStatus State.reset 0x7F00#16;
      s.bt = none ∧ s.status.cwp = 16#5 ∧ s.cfg.cwpMax < (s.status.cwp - 1#5).toNat) := by decide

theorem witness_TrapReturnRestoresStatus : State.reset.phys 15#5 = some 239 ∧ State.reset.bt = none := by decide

theorem witness_TrapThenReturnResumes :
    State.reset.bt = none ∧ State.reset.pc.getLsbD 0 = false ∧
      physReg State.reset.cfg (State.reset.status.cwp - 1#5) 15#5 = some 223 ∧
      populatedRange State.reset.cfg (vectorAddr State.reset.cfg 63#6).toNat 4 = true ∧
      State.reset.phys 31#5 = some 255 := by decide

theorem witness_AcceptedInterruptEntersItsHandler :
    (let s : State := { withStatus State.reset 0xFEE0#16 with irqs := [⟨true, 62#6⟩] };
      s.irqs = { irq := true, number := 62#6 } :: [] ∧ s.p = false ∧ s.bt = none ∧ s.status.ie = true ∧
        (62#6).toNat < s.status.ipri.toNat ∧ physReg s.cfg (s.status.cwp - 1#5) 15#5 = some 223 ∧
        populatedRange s.cfg (s.cfg.vecBase + BitVec.ofNat 32 (4 * 62)).toNat 4 = true) ∧
    populatedRange bare.cfg (bare.cfg.vecBase + BitVec.ofNat 32 (4 * 0)).toNat 4 = false ∧
    (withStatus State.reset 0xFE00#16).status.cwp = 0#5 ∧
    (let s : State := { withStatus State.reset 0xFF00#16 with irqs := [⟨true, 62#6⟩] };
      s.irqs = { irq := true, number := 62#6 } :: [] ∧ s.status.ie = true ∧ (62#6).toNat < s.status.ipri.toNat ∧
        s.status.cwp = 16#5 ∧ s.cfg.cwpMax < (s.status.cwp - 1#5).toNat) := by decide

theorem witness_ReadControlRegisterDeliversItsBits :
    State.reset.phys 7#5 = some 7 ∧ State.reset.k = 0#11 ∧ (afterPfx State.reset 1#11).k = 1#11 ∧
      (afterPfx State.reset 2#11).k = 2#11 := by decide

theorem witness_ClearAndSetInterruptEnable :
    (afterPfx State.reset 8#11).phys 0#5 = some 0 ∧ (afterPfx State.reset 8#11).k = 8#11 ∧
      (afterPfx State.reset 9#11).k = 9#11 := by decide

theorem witness_WriteControlRegisterSetsItsFields :
    (let s := poke State.reset 0x1002 0x3000#32;
      s.phys 7#5 = some 7 ∧ s.k = 0#11 ∧ populatedRange s.cfg 0x1002 2 = true ∧ s.storedOver 0x1002#33 = false ∧
        Memory.readByte s.mem 0x1003 ++ Memory.readByte s.mem 0x1002 = 0x3000#16) ∧
    Memory.readByte State.reset.mem 0x1003 ++ Memory.readByte State.reset.mem 0x1002 ≠ 0x3000#16 ∧
    ((afterPfx State.reset 1#11).k = 1#11 ∧ (afterPfx State.reset 2#11).k = 2#11) := by decide

theorem witness_OtherControlRegistersFault :
    (afterPfx State.reset 3#11).phys 7#5 = some 7 ∧ 3 ≤ (afterPfx State.reset 3#11).k.toNat ∧
      (afterPfx State.reset 7#11).k.toNat ≤ 7 ∧ 10 ≤ (afterPfx State.reset 10#11).k.toNat ∧
      10 ≤ (afterPfx State.reset 2047#11).k.toNat := by decide

theorem witness_OnlyTheListedInstructionsWriteFlags :
    (writesFlags (.mov 0#5 31#5) = false ∧ ∃ t, exec (.mov 0#5 31#5) State.reset = .next t) ∧
    (∃ t, exec (.andn 0#5 31#5) State.reset = .next t) ∧ (∃ t, exec (.rlc 31#5) State.reset = .next t) ∧
    ((afterPfx State.reset 9#11).k ≠ 0#11 ∧ ∃ t, exec (.wrctl 0#5) (afterPfx State.reset 9#11) = .next t) ∧
    (∃ t, exec (.tret 31#5) State.reset = .next t) ∧ ∃ t, exec (.trap 63#6) State.reset = .next t :=
  ⟨⟨by decide, _, rfl⟩, ⟨_, rfl⟩, ⟨_, rfl⟩, ⟨by decide, _, rfl⟩, ⟨_, rfl⟩, _, rfl⟩

theorem witness_OnlyTheListedInstructionsWriteControlState :
    (∃ t, exec (.rdctl 31#5) State.reset = .next t) ∧ State.reset.cfg.nreg.count ≤ (256 : Fin 512).val :=
  ⟨⟨_, rfl⟩, by decide⟩

/-- A machine that has run: a byte stored at the top of the data space, a prefix pending, an interrupt to come. -/
def used : State :=
  { afterPfx (withStatus (poke (resetOf .nreg128 true []) 0xFFFFFFFC 0xA5000000#32) 0x8A15#16) 3#11 with
    written := [0xFFFFFFFF], irqs := [⟨true, 5#6⟩] }

theorem witness_ResetValues :
    (used.cfg.nreg = .nreg128 ∧ Memory.readByte used.resetFrom.mem 0xFFFFFFFF = 0xA5#8 ∧ used.resetFrom.k = 0#11 ∧
      used.resetFrom.wvalid.toBits = 0x00C1#16 ∧ used.resetFrom.status.toBits = 0x7E60#16) ∧
    (State.reset.cfg.nreg = .nreg256 ∧ State.reset = State.resetWith State.reset.cfg) ∧
    (resetOf .nreg512 true []).cfg.nreg = .nreg512 := ⟨by decide, ⟨rfl, rfl⟩, rfl⟩

theorem witness_InvariantHoldsAtReset : Memory.wf used.mem = true ∧ risingAddrs used.written = true := by decide

theorem witness_EveryStepKeepsTheInvariant : State.Inv State.reset ∧ ∃ t, step State.reset = .next t :=
  ⟨⟨rfl, rfl, rfl, nofun, fun _ => rfl, nofun⟩, _, rfl⟩

end Sys2Proof.Tests
end

section
/-! The invariant of the machine: which addresses are even, what each end of an instruction keeps, and that an
instruction, an exception entry and so every step keeps it. -/

namespace Sys2Proof.Machine

/-! ## Even addresses -/

/-- Bit 0 of an address clear, as a remainder. -/
theorem bit0_clear_iff (a : Addr) : a.getLsbD 0 = false ↔ a.toNat % 2 = 0 := by
  rw [← BitVec.testBit_toNat, Nat.testBit_zero, decide_eq_false_iff_not]
  omega

/-- Even addresses add up to an even one, the wrap at 2^33 included (D7). -/
theorem add_even {a b : Addr} (ha : a.getLsbD 0 = false) (hb : b.getLsbD 0 = false) :
    (a + b).getLsbD 0 = false := by
  rw [bit0_clear_iff] at ha hb ⊢
  rw [BitVec.toNat_add]
  omega

/-- A register's value as a code address is even (R303, D28). -/
theorem codeAddr_even (v : Word) : (codeAddr v).getLsbD 0 = false := by
  rw [bit0_clear_iff, codeAddr, append_toNat]
  simp

/-- The target of BR and BSR is even (R301, R42). -/
theorem branchTarget_even {pc : Addr} (h : pc.getLsbD 0 = false) (imm11 : BitVec 11) :
    (branchTarget pc imm11).getLsbD 0 = false := by
  have hdouble : (2#33 * imm11.signExtend 33).getLsbD 0 = false := by
    rw [bit0_clear_iff, BitVec.toNat_mul]
    simp
  exact add_even (add_even h rfl) hdouble

/-! ## Stores -/

/-- A populated range of bytes above a data address ends inside the address space. -/
theorem range_end_le_of_populated {c : Config} {a : Word} {n : Nat} (h : populatedRange c a.toNat n = true) :
    a.toNat + n ≤ 2 ^ 33 := by
  have ha := a.isLt
  cases n with
  | zero => omega
  | succ n =>
    have := lt_of_populated c (a.toNat + n) ((populatedRange_iff c a.toNat (n + 1)).mp h n (by omega))
    omega

/-- A store that the platform accepts keeps memory canonical (20_memory R92). -/
theorem store_mem_wf {s : State} {a : Word} {bs : List Byte} (hs : Memory.wf s.mem = true)
    (hp : populatedRange s.cfg a.toNat bs.length = true) : Memory.wf (s.store a.toNat bs).mem = true :=
  Memory.writeBytes_wf s.mem a.toNat bs hs (range_end_le_of_populated hp)

/-! ## The ends of an instruction -/

/-- The instruction after the one at `pc` is at an even address (R43, R44). -/
theorem State.Inv.nextPcEven {s : State} (hs : s.Inv) : s.nextPc.getLsbD 0 = false := by
  unfold State.nextPc
  cases hb : s.bt with
  | none => exact add_even hs.pcEven rfl
  | some b => exact hs.targetEven b hb

/-- `finish()` from a state `u` that has changed neither the program flow nor the canonical forms (R46). -/
theorem State.Inv.finish {s u : State} (hs : s.Inv) (hm : Memory.wf u.mem = true)
    (hw : risingAddrs u.written = true) (hn : u.nextPc = s.nextPc) : u.finish.Inv where
  memWf := hm
  writtenRising := hw
  pcEven := by rw [State.finish_pc, hn]; exact hs.nextPcEven
  targetEven := nofun
  kOnlyAfterPfx := fun _ => rfl
  pfxOutsideDelaySlot := nofun

/-- A register written keeps the invariant. -/
theorem State.Inv.setPhys {s : State} (hs : s.Inv) (d : Fin 512) (v : Word) : (s.setPhys d v).Inv where
  memWf := hs.memWf
  writtenRising := hs.writtenRising
  pcEven := hs.pcEven
  targetEven := hs.targetEven
  kOnlyAfterPfx := hs.kOnlyAfterPfx
  pfxOutsideDelaySlot := hs.pfxOutsideDelaySlot

/-- The sample of the interrupt inputs taken keeps the invariant. -/
theorem State.Inv.afterSample {s : State} (hs : s.Inv) : s.afterSample.Inv where
  memWf := hs.memWf
  writtenRising := hs.writtenRising
  pcEven := hs.pcEven
  targetEven := hs.targetEven
  kOnlyAfterPfx := hs.kOnlyAfterPfx
  pfxOutsideDelaySlot := hs.pfxOutsideDelaySlot

/-- A branch to an even target (R301, R320). -/
theorem State.Inv.branchTo {s : State} (hs : s.Inv) {target : Addr} (ht : target.getLsbD 0 = false) :
    (s.branchTo target).Inv where
  memWf := hs.memWf
  writtenRising := hs.writtenRising
  pcEven := add_even hs.pcEven rfl
  targetEven := fun _ h => Option.some.inj h ▸ ht
  kOnlyAfterPfx := fun _ => rfl
  pfxOutsideDelaySlot := nofun

/-- A skip to an even address, outside a delay slot (R310). -/
theorem State.Inv.skipTo {s : State} (hs : s.Inv) (slot : s.bt = none) {target : Addr}
    (ht : target.getLsbD 0 = false) : (s.clearPfx.setPc target).Inv where
  memWf := hs.memWf
  writtenRising := hs.writtenRising
  pcEven := ht
  targetEven := fun _ h => absurd (slot.symm.trans h) nofun
  kOnlyAfterPfx := fun _ => rfl
  pfxOutsideDelaySlot := nofun

/-- A PFX outside a delay slot (R300, R322). -/
theorem State.Inv.prefixed {s : State} (hs : s.Inv) (slot : s.bt = none) (imm11 : BitVec 11) :
    State.Inv { s with k := imm11, p := true, pc := s.pc + 2#33 } where
  memWf := hs.memWf
  writtenRising := hs.writtenRising
  pcEven := add_even hs.pcEven rfl
  targetEven := hs.targetEven
  kOnlyAfterPfx := nofun
  pfxOutsideDelaySlot := fun _ => slot

/-- A return from an exception, outside a delay slot (R336). -/
theorem State.Inv.returnTo {s : State} (hs : s.Inv) (slot : s.bt = none) {target : Addr}
    (ht : target.getLsbD 0 = false) : (s.returnTo target).Inv where
  memWf := hs.memWf
  writtenRising := hs.writtenRising
  pcEven := ht
  targetEven := fun _ h => absurd (slot.symm.trans h) nofun
  kOnlyAfterPfx := fun _ => rfl
  pfxOutsideDelaySlot := nofun

/-- The entry into an exception establishes the invariant wherever the canonical forms hold: it sets the whole
program flow itself, and the vector's entry is doubled (R380, D28). -/
theorem enterException_inv {s t : State} {n : BitVec 6} {ret : Addr} {dec : Bool} (hm : Memory.wf s.mem = true)
    (hw : risingAddrs s.written = true) (h : enterException s n ret dec = .next t) : t.Inv := by
  obtain ⟨d, -, -, rfl⟩ := enterException_eq_next.mp h
  exact
    { memWf := hm
      writtenRising := hw
      pcEven := codeAddr_even _
      targetEven := nofun
      kOnlyAfterPfx := fun _ => rfl
      pfxOutsideDelaySlot := nofun }

/-! ## Every instruction, and the step -/

/-- Whatever an instruction leaves meets the invariant when the state it ran in does. -/
theorem State.Inv.left {s t : State} {i : Instr} (hs : s.Inv) (h : Left s i t) : t.Inv := by
  cases h with
  | result | compared | comparedImm | saved | restored | readControl | wroteStatus | wroteIstatus | wroteWvalid
    | wroteEnable => exact hs.finish hs.memWf hs.writtenRising rfl
  | stored _ ea bs populated =>
    exact hs.finish (store_mem_wf hs.memWf populated) (insertRange_rising _ _ _ hs.writtenRising) rfl
  | branched => exact hs.branchTo (branchTarget_even hs.pcEven _)
  | branchedLinked => exact (hs.setPhys _ _).branchTo (branchTarget_even hs.pcEven _)
  | jumped => exact hs.branchTo (codeAddr_even _)
  | called => exact (hs.setPhys _ _).branchTo (codeAddr_even _)
  | skipped _ slot target near =>
    refine hs.skipTo slot ?_
    rcases near with rfl | rfl | rfl <;> exact add_even hs.pcEven rfl
  | prefixed _ slot => exact hs.prefixed slot _
  | returned _ _ slot => exact hs.returnTo slot (codeAddr_even _)
  | savedUnderflow _ _ _ _ _ enter | restoredOverflow _ enter | trapped _ _ _ enter =>
    refine enterException_inv ?_ ?_ enter
    · exact hs.memWf
    · exact hs.writtenRising

/-- An instruction that completes keeps the invariant. -/
theorem exec_keeps_inv {i : Instr} {s t : State} (hs : s.Inv) (h : exec i s = .next t) : t.Inv :=
  hs.left (exec_left h)

/-- Settles O60: a step is an exception entry or an instruction, and each keeps the invariant. -/
theorem everyStepKeepsTheInvariant : Obligations.EveryStepKeepsTheInvariant := by
  intro s t hs h
  rcases step_eq_next h with ⟨-, hinterrupt⟩ | ⟨-, i, -, hexec⟩
  · exact enterException_inv (s := s.afterSample) hs.memWf hs.writtenRising hinterrupt
  · exact exec_keeps_inv hs.afterSample hexec

end Sys2Proof.Machine
end

section
/-! The windowed view of the register file: places as numbers, what two adjacent windows share, and that an
instruction completes only where every register it accesses has a place. -/

namespace Sys2Proof.Machine

/-! ## Places as numbers -/

/-- A register has no place exactly when it is windowed and the window lies outside the file (R35). -/
theorem physReg_eq_none_iff {c : Config} {w : BitVec 5} {r : RegIx} :
    physReg c w r = none ↔ 8 ≤ r.toNat ∧ c.cwpMax < w.toNat := by
  constructor
  · intro h
    by_contra hinside
    by_cases hr : r.toNat < 8
    · exact nomatch (physReg_global hr).symm.trans h
    · exact nomatch (physReg_windowed (by omega) (by omega)).symm.trans h
  · exact fun ⟨hr, hw⟩ => physReg_outside hr hw

/-- The place of register number `n`, 8 to 31, of a window inside the file (R33). -/
theorem physReg_ofNat {c : Config} {w : BitVec 5} {n : Nat} (h8 : 8 ≤ n) (h32 : n < 32) (hw : w.toNat ≤ c.cwpMax) :
    ∃ i, physReg c w (BitVec.ofNat 5 n) = some i ∧ i.val = 16 * w.toNat + n := by
  have hn : (BitVec.ofNat 5 n).toNat = n := by
    rw [BitVec.toNat_ofNat]
    omega
  exact ⟨_, physReg_windowed (by omega) hw, congrArg (16 * w.toNat + ·) hn⟩

/-- The window position before one that is not 0. -/
theorem toNat_prevWindow {c : BitVec 5} (h : 1 ≤ c.toNat) : (c - 1#5).toNat = c.toNat - 1 := by
  have := c.isLt
  rw [BitVec.toNat_sub]
  simp
  omega

/-- Settles O8: the two kinds of place are those of `physReg_global` and `physReg_windowed`. -/
theorem registerPlaces : Obligations.RegisterPlaces := by
  intro s r
  refine ⟨fun hr => ⟨_, physReg_global hr, rfl⟩, fun hr hw => ⟨_, physReg_windowed hr hw, ?_⟩, fun i hi => ?_⟩
  · show 16 * s.status.cwp.toNat + r.toNat = 8 + (16 * s.status.cwp.toNat + (r.toNat - 8))
    omega
  · exact ⟨physReg_lt_count hi, readReg_of_phys hi, fun v => writeReg_of_phys v hi⟩

/-! ## Adjacent windows -/

/-- The outs of a window are the ins of the one before it: `16*c + (8 + n) = 16*(c - 1) + (24 + n)` (R34). -/
theorem outs_are_ins_of_prev {cfg : Config} {c : BitVec 5} {n : Nat} (hc : c.toNat ≤ cfg.cwpMax)
    (h1 : 1 ≤ c.toNat) (hn : n < 8) :
    ∃ i, physReg cfg c (BitVec.ofNat 5 (8 + n)) = some i ∧
      physReg cfg (c - 1#5) (BitVec.ofNat 5 (24 + n)) = some i := by
  have hprev := toNat_prevWindow h1
  obtain ⟨i, hi, hval⟩ := physReg_ofNat (c := cfg) (n := 8 + n) (by omega) (by omega) hc
  obtain ⟨j, hj, hval'⟩ := physReg_ofNat (c := cfg) (w := c - 1#5) (n := 24 + n) (by omega) (by omega) (by omega)
  have hij : i = j := Fin.ext (by omega)
  exact ⟨i, hi, hij ▸ hj⟩

/-- The ins of a window lie above every register that the window before it sees (R34). -/
theorem ins_not_seen_by_prev {cfg : Config} {c : BitVec 5} {n : Nat} {r : RegIx} {i : Fin 512}
    (hc : c.toNat ≤ cfg.cwpMax) (h1 : 1 ≤ c.toNat) (hn : n < 8)
    (hi : physReg cfg c (BitVec.ofNat 5 (24 + n)) = some i) : physReg cfg (c - 1#5) r ≠ some i := by
  intro hr
  have hprev := toNat_prevWindow h1
  have hlt := r.isLt
  obtain ⟨j, hj, hval⟩ := physReg_ofNat (c := cfg) (n := 24 + n) (by omega) (by omega) hc
  obtain rfl : j = i := Option.some.inj (hj.symm.trans hi)
  rcases physReg_cases hr with ⟨_, _⟩ | ⟨_, _, _⟩ <;> omega

/-- A local register of a window is no other register of any window (R34). -/
theorem locals_unshared {cfg : Config} {c c' : BitVec 5} {n : Nat} {r : RegIx} {i : Fin 512}
    (hc : c.toNat ≤ cfg.cwpMax) (hn : n < 8) (hi : physReg cfg c (BitVec.ofNat 5 (16 + n)) = some i)
    (hr : physReg cfg c' r = some i) : c' = c ∧ r = BitVec.ofNat 5 (16 + n) := by
  have hlt := r.isLt
  obtain ⟨j, hj, hval⟩ := physReg_ofNat (c := cfg) (n := 16 + n) (by omega) (by omega) hc
  obtain rfl : j = i := Option.some.inj (hj.symm.trans hi)
  rcases physReg_cases hr with ⟨hglobal, hplace⟩ | ⟨hwindowed, -, hplace⟩
  · omega
  · have hwindow : c'.toNat = c.toNat := by omega
    refine ⟨BitVec.eq_of_toNat_eq hwindow, BitVec.eq_of_toNat_eq ?_⟩
    rw [BitVec.toNat_ofNat]
    omega

/-- Settles O9: the three clauses are places compared as numbers. -/
theorem windowsOverlapInOutsOnly : Obligations.WindowsOverlapInOutsOnly := by
  intro cfg c hc
  exact ⟨fun h1 _ hn => outs_are_ins_of_prev hc h1 hn, fun h1 _ _ _ hn hi => ins_not_seen_by_prev hc h1 hn hi,
    fun _ _ _ _ hn hi hr => locals_unshared hc hn hi hr⟩

/-! ## Registers an instruction needs -/

/-- Each register of a list has a place in the current window. -/
def State.Places (s : State) (rs : List RegIx) : Prop := ∀ r ∈ rs, ∃ i, s.phys r = some i

theorem State.places_nil {s : State} : s.Places [] := nofun

theorem State.places_cons {s : State} {r : RegIx} {rs : List RegIx} {i : Fin 512} (h : s.phys r = some i)
    (hrs : s.Places rs) : s.Places (r :: rs) := by
  intro q hq
  rcases List.mem_cons.mp hq with rfl | hq
  · exact ⟨i, h⟩
  · exact hrs q hq

theorem State.places_one {s : State} {a : RegIx} {i : Fin 512} (ha : s.phys a = some i) : s.Places [a] :=
  places_cons ha places_nil

theorem State.places_two {s : State} {a b : RegIx} {i j : Fin 512} (ha : s.phys a = some i)
    (hb : s.phys b = some j) : s.Places [a, b] := places_cons ha (places_one hb)

/-- A read that is followed by something which completes had a place to read. -/
theorem place_of_read {α : Type} {s : State} {a : RegIx} {f : Word → Result α} {y : α}
    (h : andThen (readReg s a) f = .next y) : ∃ i, s.phys a = some i ∧ ∃ x, f x = .next y := by
  obtain ⟨x, hx, h⟩ := andThen_eq_next.mp h
  obtain ⟨i, hi, -⟩ := readReg_eq_next.mp hx
  exact ⟨i, hi, x, h⟩

/-- A write that is followed by something which completes had a place to write. -/
theorem place_of_write {α : Type} {s : State} {a : RegIx} {v : Word} {f : State → Result α} {y : α}
    (h : andThen (writeReg s a v) f = .next y) : ∃ i, s.phys a = some i := by
  obtain ⟨u, hu, -⟩ := andThen_eq_next.mp h
  obtain ⟨i, hi, -⟩ := writeReg_eq_next.mp hu
  exact ⟨i, hi⟩

theorem places_of_logicOp {s t : State} {a : RegIx} {bi : BitVec 5} {f : Word → Word → Word}
    (h : logicOp s a bi f = .next t) : s.Places (if s.p then [a] else [a, bi]) := by
  obtain ⟨i, y, hi, hy, -⟩ := logicOp_eq_next.mp h
  rcases logicOperand_eq_next.mp hy with ⟨hp, -⟩ | ⟨hp, j, hj, -⟩
  · rw [if_pos hp]
    exact State.places_one hi
  · rw [if_neg (by simp [hp])]
    exact State.places_two hi hj

/-- A load reads its base and writes its result. -/
theorem places_of_load {s t : State} {a b : RegIx} {ea : Word → Word}
    (h : (andThen (readReg s b) fun x => loadOp s a (ea x)) = .next t) : s.Places [a, b] := by
  obtain ⟨i, hi, x, h⟩ := place_of_read h
  obtain ⟨j, hj, -⟩ := loadOp_eq_next.mp h
  exact State.places_two hj hi

/-- A register read and then a second one. -/
theorem places_of_two_reads {α : Type} {s : State} {a b : RegIx} {f : Word → Word → Result α} {y : α}
    (h : (andThen (readReg s a) fun x => andThen (readReg s b) (f x)) = .next y) :
    s.Places [a, b] ∧ s.Places [b, a] := by
  obtain ⟨i, hi, x, h⟩ := place_of_read h
  obtain ⟨j, hj, -⟩ := place_of_read h
  exact ⟨State.places_two hi hj, State.places_two hj hi⟩

/-- An instruction that completes has found a place for every register it accesses (R35, D19). -/
theorem exec_places {i : Instr} {s t : State} (h : exec i s = .next t) : s.Places (accesses s.p i) := by
  cases i
  case restore | trap | skps | br | pfx => exact State.places_nil
  case and | andn | or | xor => exact places_of_logicOp h
  case add | sub | cmp | lsl | lsr | asr | ext8d | ext16d => exact (places_of_two_reads h).1
  case st | stp | sts => exact (places_of_two_reads h).2
  case st8d | st8s | st16d | st16s | sts8s | sts16s => exact (places_of_two_reads h).1
  case ld | ldp | lds => exact places_of_load h
  case mov =>
    obtain ⟨i, j, hb, ha, -⟩ := unaryOp_eq_next.mp h
    exact State.places_two ha hb
  case fill8 | fill16 =>
    obtain ⟨i, j, ha, hr0, -⟩ := unaryOp_eq_next.mp h
    exact State.places_two ha hr0
  case mstep a =>
    replace h : execMstep a s = .next t := h
    unfold execMstep at h
    obtain ⟨i, j, -, hr0, ha, -, -⟩ := binaryOp_eq_next.mp h
    exact State.places_two ha hr0
  case mul =>
    replace h : execMul _ s = .next t := h
    unfold execMul at h
    split at h
    · exact (places_of_two_reads h).2
    · cases h
  case addi | subi | cmpi | lsli | lsri | asri | movhi | ext8s | ext16s | not | neg | abs | sext8 | sext16 | rlc
      | rrc | swap | wrctl | save =>
    obtain ⟨i, hi, -⟩ := place_of_read h
    exact State.places_one hi
  case movi | bgen =>
    obtain ⟨i, hi⟩ := place_of_write h
    exact State.places_one hi
  case skp0 | skp1 | skprz | skprnz | tret | jmp =>
    obtain ⟨-, h⟩ := outsideDelaySlot_eq_next.mp h
    obtain ⟨i, hi, -⟩ := place_of_read h
    exact State.places_one hi
  case bsr =>
    obtain ⟨-, h⟩ := outsideDelaySlot_eq_next.mp h
    obtain ⟨i, hi⟩ := place_of_write h
    exact State.places_one hi
  case call =>
    obtain ⟨-, h⟩ := outsideDelaySlot_eq_next.mp h
    obtain ⟨i, hi, x, h⟩ := place_of_read h
    obtain ⟨j, hj⟩ := place_of_write h
    exact State.places_two hi hj
  case rdctl a =>
    obtain ⟨r, hr, h⟩ := andThen_eq_next.mp h
    obtain ⟨i, hi⟩ := place_of_write h
    rcases readControl_eq_next hr with ⟨-, rfl⟩ | ⟨-, rfl⟩ | ⟨-, rfl⟩ | ⟨-, rfl⟩ <;> exact State.places_one hi

/-- MOV into a register that has no place is a fault, whether or not its source has one. -/
theorem mov_fault_of_none {s : State} {r : RegIx} (h : s.phys r = none) (b : RegIx) :
    exec (.mov r b) s = .fault .windowOutsideFile := by
  show (andThen (readReg s b) fun y => writeAndFinish s r y) = _
  cases hb : s.phys b with
  | none => rw [readReg_of_none hb, andThen_fault]
  | some i => rw [readReg_of_phys hb, andThen_next, writeAndFinish, writeReg_of_none _ h, andThen_fault]

/-- Settles O10: `exec_places` says that an instruction which completes finds a place for what it accesses. -/
theorem windowOutsideTheFileStops : Obligations.WindowOutsideTheFileStops := by
  intro s r
  refine ⟨physReg_eq_none_iff, fun h => ?_⟩
  refine ⟨readReg_of_none h, fun v => writeReg_of_none v h, mov_fault_of_none h, fun i t hr hexec => ?_⟩
  obtain ⟨j, hj⟩ := exec_places hexec r hr
  exact nomatch h.symm.trans hj

end Sys2Proof.Machine
end

section
/-! What an instruction that completes leaves unchanged: the program flow's common end, the flags, the control
registers, the configuration. Each follows from `exec_left` by the shapes of instruction. -/

namespace Sys2Proof.Machine

/-! ## finish() -/

/-- A skip is one of the twelve instructions barred from a delay slot (R322). -/
theorem skip_barred {i : Instr} (skip : (∃ a n, i = .skp0 a n) ∨ (∃ a n, i = .skp1 a n) ∨ (∃ a, i = .skprz a) ∨
    (∃ a, i = .skprnz a) ∨ ∃ n, i = .skps n) : barredFromDelaySlot i = true := by
  rcases skip with ⟨_, _, rfl⟩ | ⟨_, _, rfl⟩ | ⟨_, rfl⟩ | ⟨_, rfl⟩ | ⟨_, rfl⟩ <;> rfl

/-- An instruction that may stand in a delay slot, SAVE and RESTORE apart, ends with `finish()`, taken in a state whose
next address is the one it started with (R46). -/
theorem left_by_finish {i : Instr} {s t : State} (hbar : barredFromDelaySlot i = false) (hrestore : i ≠ .restore)
    (hsave : ∀ n, i ≠ .save n) (h : Left s i t) : ∃ u : State, t = u.finish ∧ u.nextPc = s.nextPc := by
  cases h with
  | result | compared | comparedImm | stored | readControl | wroteStatus | wroteIstatus | wroteWvalid | wroteEnable =>
    exact ⟨_, rfl, rfl⟩
  | skipped skip => exact nomatch (skip_barred skip).symm.trans hbar
  | branched | branchedLinked | jumped | called | prefixed | trapped | returned => exact nomatch hbar
  | saved | savedUnderflow => exact absurd rfl (hsave _)
  | restored | restoredOverflow => exact absurd rfl hrestore

/-- Settles O38, from `left_by_finish`. -/
theorem otherInstructionsEndWithFinish : Obligations.OtherInstructionsEndWithFinish := by
  intro i s t hbar hrestore hsave h
  obtain ⟨u, rfl, hpc⟩ := left_by_finish hbar hrestore hsave (exec_left h)
  exact ⟨hpc, rfl, rfl, rfl⟩

/-! ## What an exception entry leaves unchanged -/

/-- What no instruction changes: the configuration, the interrupt samples, and the places beyond NREG (00_scope R7,
log 1, log 25, log 28). -/
structure State.KeepsFixed (s t : State) : Prop where
  cfg : t.cfg = s.cfg
  irqs : t.irqs = s.irqs
  beyond : ∀ j : Fin 512, s.cfg.nreg.count ≤ j.val → t.regs.get j = s.regs.get j

/-- A change of anything but those three. -/
theorem State.KeepsFixed.of_same_regs {s t : State} (hcfg : t.cfg = s.cfg) (hirqs : t.irqs = s.irqs)
    (hregs : t.regs = s.regs) : s.KeepsFixed t :=
  ⟨hcfg, hirqs, fun j _ => congrArg (Vector.get · j) hregs⟩

/-- The write of a register that the CPU has. -/
theorem State.KeepsFixed.of_written {s t : State} {d : Fin 512} {v : Word} (place : d.val < s.cfg.nreg.count)
    (hcfg : t.cfg = s.cfg) (hirqs : t.irqs = s.irqs) (hregs : t.regs = (s.setPhys d v).regs) : s.KeepsFixed t where
  cfg := hcfg
  irqs := hirqs
  beyond := fun j hj => by
    have hne : d ≠ j := fun h => absurd (h ▸ place) (Nat.not_lt.mpr hj)
    rw [hregs, State.setPhys_get_of_ne s d j v hne]

theorem State.KeepsFixed.trans {s t u : State} (hst : s.KeepsFixed t) (htu : t.KeepsFixed u) : s.KeepsFixed u where
  cfg := htu.cfg.trans hst.cfg
  irqs := htu.irqs.trans hst.irqs
  beyond := fun j hj => (htu.beyond j (hst.cfg ▸ hj)).trans (hst.beyond j hj)

/-- The entry into an exception (R380): which parts of the state it keeps, and that ISTATUS takes STATUS. -/
theorem enterException_frame {s t : State} {n : BitVec 6} {ret : Addr} {dec : Bool}
    (h : enterException s n ret dec = .next t) :
    s.KeepsFixed t ∧ t.wvalid = s.wvalid ∧ t.istatus = s.status ∧ t.status.flags = s.status.flags := by
  obtain ⟨d, hd, -, rfl⟩ := enterException_eq_next.mp h
  exact ⟨.of_written (physReg_lt_count hd) rfl rfl rfl, rfl, rfl, rfl⟩

/-! ## Every shape of instruction -/

/-- No instruction changes the configuration, the interrupt samples or a place beyond NREG. -/
theorem left_keepsFixed {i : Instr} {s t : State} (h : Left s i t) : s.KeepsFixed t := by
  cases h with
  | compared | comparedImm | stored | branched | jumped | skipped | prefixed | restored | returned | wroteStatus
    | wroteIstatus | wroteWvalid | wroteEnable => exact .of_same_regs rfl rfl rfl
  | result _ _ _ _ _ _ _ _ place | branchedLinked _ _ _ place | called _ _ _ _ place | saved _ _ _ place
    | readControl _ _ _ _ place => exact .of_written place rfl rfl rfl
  | savedUnderflow _ _ _ _ place enter =>
    refine .trans ?_ (enterException_frame enter).1
    exact .of_written place rfl rfl rfl
  | restoredOverflow _ enter =>
    refine .trans ?_ (enterException_frame enter).1
    exact .of_same_regs rfl rfl rfl
  | trapped _ _ _ enter => exact (enterException_frame enter).1

/-- Only WRCTL writes WVALID (R55, R63). -/
theorem left_wvalid {i : Instr} {s t : State} (hwrctl : ∀ a, i ≠ .wrctl a) (h : Left s i t) :
    t.wvalid = s.wvalid := by
  cases h with
  | wroteStatus | wroteIstatus | wroteWvalid | wroteEnable => exact absurd rfl (hwrctl _)
  | savedUnderflow _ _ _ _ _ enter | restoredOverflow _ enter | trapped _ _ _ enter =>
    obtain ⟨-, hwvalid, -⟩ := enterException_frame enter
    exact hwvalid
  | _ => rfl

/-- Only an exception entry and WRCTL write ISTATUS (R62). -/
theorem left_istatus {i : Instr} {s t : State} (hsave : ∀ n, i ≠ .save n) (hrestore : i ≠ .restore)
    (htrap : ∀ n, i ≠ .trap n) (hwrctl : ∀ a, i ≠ .wrctl a) (h : Left s i t) : t.istatus = s.istatus := by
  cases h with
  | wroteStatus | wroteIstatus | wroteWvalid | wroteEnable => exact absurd rfl (hwrctl _)
  | savedUnderflow => exact absurd rfl (hsave _)
  | restoredOverflow => exact absurd rfl hrestore
  | trapped => exact absurd rfl (htrap _)
  | _ => rfl

/-- IE, IPRI and CWP change by the window instructions, TRAP, TRET and WRCTL only (R36, R57): any other instruction
leaves STATUS as it was up to the flags. -/
theorem left_status {i : Instr} {s t : State} (hsave : ∀ n, i ≠ .save n) (hrestore : i ≠ .restore)
    (htrap : ∀ n, i ≠ .trap n) (htret : ∀ a, i ≠ .tret a) (hwrctl : ∀ a, i ≠ .wrctl a) (h : Left s i t) :
    ∃ f, t.status = { s.status with flags := f } := by
  cases h with
  | wroteStatus | wroteIstatus | wroteWvalid | wroteEnable => exact absurd rfl (hwrctl _)
  | saved | savedUnderflow => exact absurd rfl (hsave _)
  | restored | restoredOverflow => exact absurd rfl hrestore
  | trapped => exact absurd rfl (htrap _)
  | returned => exact absurd rfl (htret _)
  | result _ _ _ _ _ f | compared _ _ f | comparedImm _ _ f => exact ⟨f, rfl⟩
  | _ => exact ⟨s.status.flags, rfl⟩

/-- Settles O57, field by field over the shapes of instruction. -/
theorem onlyTheListedInstructionsWriteControlState : Obligations.OnlyTheListedInstructionsWriteControlState := by
  intro i s t h
  have hleft := exec_left h
  obtain ⟨hcfg, hirqs, hbeyond⟩ := left_keepsFixed hleft
  refine ⟨fun hsave hrestore htrap htret hwrctl => ?_, fun hsave hrestore htrap hwrctl => ?_, fun hwrctl => ?_, hcfg,
    hirqs, hbeyond⟩
  · obtain ⟨f, hstatus⟩ := left_status hsave hrestore htrap htret hwrctl hleft
    simp [hstatus]
  · exact left_istatus hsave hrestore htrap hwrctl hleft
  · exact left_wvalid hwrctl hleft

/-! ## Flags -/

/-- An instruction outside the table of flag writers leaves the flags as they were (R61). -/
theorem left_flags {i : Instr} {s t : State} (hwrites : writesFlags i = false) (h : Left s i t) :
    t.status.flags = s.status.flags := by
  cases h with
  | result _ _ _ _ _ f _ _ _ flags => exact flags hwrites
  | compared | comparedImm | returned | wroteStatus | wroteIstatus | wroteWvalid | wroteEnable =>
    exact nomatch hwrites
  | savedUnderflow _ _ _ _ _ enter | restoredOverflow _ enter | trapped _ _ _ enter =>
    obtain ⟨-, -, -, hflags⟩ := enterException_frame enter
    exact hflags
  | _ => rfl

/-- A logic instruction keeps V and C (R215). -/
theorem logicOp_flags {s t : State} {a : RegIx} {bi : BitVec 5} {f : Word → Word → Word}
    (h : logicOp s a bi f = .next t) :
    t.status.flags.v = s.status.flags.v ∧ t.status.flags.c = s.status.flags.c := by
  obtain ⟨i, y, -, -, rfl⟩ := logicOp_eq_next.mp h
  exact ⟨rfl, rfl⟩

/-- A rotate keeps N, V and Z (R257, R258). -/
theorem rotateOp_flags {s t : State} {a : RegIx} {f : Word → Bool → Word × Bool} (h : rotateOp s a f = .next t) :
    t.status.flags.n = s.status.flags.n ∧ t.status.flags.v = s.status.flags.v ∧
      t.status.flags.z = s.status.flags.z := by
  obtain ⟨i, -, rfl⟩ := rotateOp_eq_next.mp h
  exact ⟨rfl, rfl, rfl⟩

/-- WRCTL writes the flags only as part of STATUS, which is selected by K = 0 (R341). -/
theorem wrctl_flags {s t : State} {a : RegIx} (hk : s.k ≠ 0#11) (h : exec (.wrctl a) s = .next t) :
    t.status.flags = s.status.flags := by
  cases exec_left h with
  | wroteStatus _ _ k => exact absurd k hk
  | wroteIstatus | wroteWvalid | wroteEnable => rfl
  | result _ _ _ _ wrctl => exact absurd rfl (wrctl a)
  | stored store => exact nomatch store
  | skipped skip => exact nomatch skip_barred skip

/-- TRET takes all four flags from ISTATUS (R336). -/
theorem tret_flags {s t : State} {a : RegIx} (h : exec (.tret a) s = .next t) :
    t.status.flags = s.istatus.flags := by
  obtain ⟨-, h⟩ := outsideDelaySlot_eq_next.mp h
  obtain ⟨x, -, h⟩ := andThen_eq_next.mp h
  rw [← Host.Outcome.next.inj h, State.returnTo_status]

/-- TRAP copies the flags to ISTATUS (R334, R380). -/
theorem trap_istatus_flags {s t : State} {n : BitVec 6} (h : exec (.trap n) s = .next t) :
    t.istatus.flags = s.status.flags := by
  obtain ⟨-, h⟩ := outsideDelaySlot_eq_next.mp h
  obtain ⟨-, -, histatus, -⟩ := enterException_frame h
  rw [histatus]

/-- Settles O56, row by row of the table of flag writers. -/
theorem onlyTheListedInstructionsWriteFlags : Obligations.OnlyTheListedInstructionsWriteFlags := by
  intro i s t h
  refine ⟨fun hwrites => left_flags hwrites (exec_left h), ?_, ?_, ?_, ?_, ?_⟩
  · rintro a bi (rfl | rfl | rfl | rfl) <;> exact logicOp_flags h
  · rintro a (rfl | rfl) <;> exact rotateOp_flags h
  · rintro a rfl hk
    exact wrctl_flags hk h
  · rintro a rfl
    exact tret_flags h
  · rintro n rfl
    exact trap_istatus_flags h

/-! ## Reset -/

/-- The fields of the reset state as the spec gives them (R75, R421, D4, D6), in every configuration. -/
theorem resetWith_fields (c : Config) :
    (State.resetWith c).pc.toNat = 2 * c.resetPcHalf.toNat ∧ (State.resetWith c).istatus.toBits = 0#16 ∧
    (c.nreg = .nreg256 → (State.resetWith c).wvalid.toBits = 0x01C1#16) ∧
    (c.nreg = .nreg128 → (State.resetWith c).wvalid.toBits = 0x00C1#16) ∧
    (c.nreg = .nreg512 → (State.resetWith c).wvalid.toBits = 0x03C1#16) := by
  have hzero : (⟨false, 0#6, 0#5, ⟨false, false, false, false⟩⟩ : StatusReg).toBits = 0#16 := by decide
  have hwvalid : (State.resetWith c).wvalid.toBits = 0#6 ++ BitVec.ofNat 5 (c.nreg.count / 16 - 2) ++ 1#5 := rfl
  refine ⟨?_, hzero, fun h => ?_, fun h => ?_, fun h => ?_⟩
  · show (c.resetPcHalf ++ 0#1).toNat = _
    rw [append_toNat]
    simp
    omega
  all_goals
    rw [hwvalid, h]
    decide

/-- Settles O58: the reset event differs from the first run's reset state in fields that are no state of the CPU. -/
theorem resetValues : Obligations.ResetValues := by
  intro before s hs
  obtain ⟨hpc, histatus, h256, h128, h512⟩ := resetWith_fields before.cfg
  rcases hs with rfl | rfl
  · exact ⟨rfl, rfl, rfl, rfl, rfl, histatus, h256, h128, h512, hpc, rfl, rfl, rfl, rfl,
      fun _ => ⟨fun _ => rfl, rfl, rfl, rfl, rfl⟩⟩
  · refine ⟨rfl, rfl, rfl, rfl, rfl, histatus, h256, h128, h512, hpc, rfl, rfl, rfl, rfl, fun h => ?_⟩
    rw [h]
    exact ⟨fun _ => rfl, rfl, rfl, rfl, rfl⟩

end Sys2Proof.Machine
end

section
/-! The round trip from an instruction to its word and back (30_encoding R132 to R138, R150), and the two bytes of the
word as memory holds them (20_memory R91, R92). Each instruction's word goes down the decoder's branches by the slices
of its format (`formatRR_slices` and its like). -/

namespace Sys2Proof

/-! ## The part of the decoder that a word reaches -/

/-- No slice of a half-word with bit 15 clear is a number too large for the bits that are left. -/
theorem slice_ne_of_lt {w : Half} (hw : w.toNat < 32768) {start len : Nat} {v : BitVec len}
    (hv : 32767 / 2 ^ start < v.toNat) : w.extractLsb' start len ≠ v := by
  rintro rfl
  rw [BitVec.extractLsb'_toNat, Nat.shiftRight_eq_div_pow] at hv
  have hslice : w.toNat / 2 ^ start % 2 ^ len ≤ 32767 / 2 ^ start :=
    (Nat.mod_le _ _).trans (Nat.div_le_div_right (by omega))
  omega

/-- A word with bit 15 clear is decoded by its op6 (R135): each of the eight rows above has that bit set. -/
theorem decode_of_op6 {w : Half} (hasMul : Bool) (hlow : (w.extractLsb' 10 6).toNat < 32) :
    decode hasMul w = decodeOp6 hasMul w := by
  have hw : w.toNat < 32768 := by
    have := w.isLt
    rw [BitVec.extractLsb'_toNat, Nat.shiftRight_eq_div_pow] at hlow
    omega
  unfold decode
  iterate 8 rw [if_neg (slice_ne_of_lt hw (by decide))]

/-- The words of group u (R136). -/
theorem decode_groupU {w : Half} (hasMul : Bool) (h : w.extractLsb' 10 6 = 0b011101#6) :
    decode hasMul w = decodeU w := by
  rw [decode_of_op6 hasMul (by rw [h]; decide)]
  simp [decodeOp6, h]

/-- The words of group v (R137). -/
theorem decode_groupV {w : Half} (hasMul : Bool) (h : w.extractLsb' 10 6 = 0b011110#6) :
    decode hasMul w = decodeV w := by
  rw [decode_of_op6 hasMul (by rw [h]; decide)]
  simp [decodeOp6, h]

/-- The words of group w (R138). -/
theorem decode_groupW {w : Half} (hasMul : Bool) (h : w.extractLsb' 10 6 = 0b011111#6) :
    decode hasMul w = decodeW hasMul w := by
  rw [decode_of_op6 hasMul (by rw [h]; decide)]
  simp [decodeOp6, h]

/-! ## The round trip -/

/-- Every instruction that exists is what its word decodes to; one case for each format of R132. -/
theorem decode_encode {hasMul : Bool} {i : Instr} (hi : i.wellFormed hasMul = true) :
    decode hasMul (encode i) = .ok i := by
  cases i with
  | add | addi | sub | subi | cmp | cmpi | lsl | lsli | lsr | lsri | asr | asri | mov | movi | and | andn | or | xor
    | bgen | ext8d | skp0 | skp1 | ld | st | ext16d | movhi =>
    rw [encode, decode_of_op6 hasMul (by rw [(formatRR_slices _ _ _).1]; decide)]
    simp [decodeOp6, formatRR_slices]
  | sts8s =>
    rw [encode, decode_of_op6 hasMul (by rw [(formatI10_slices _ _).1]; decide)]
    simp [decodeOp6, formatI10_slices]
  | sts16s =>
    rw [encode, decode_of_op6 hasMul (by rw [(formatI9_slices _ _).1]; decide)]
    simp [decodeOp6, formatI9_slices]
  | ext8s | st8s =>
    rw [encode, decode_groupU hasMul (formatRi2u_slices _ _ _).1]
    simp [decodeU, formatRi2u_slices]
  | ext16s | st16s =>
    rw [encode, decode_groupU hasMul (formatRi1u_slices _ _ _).1]
    simp [decodeU, formatRi1u_slices]
  | save =>
    rw [encode, decode_groupV hasMul (formatI8v_slices _ _).1]
    simp [decodeV, formatI8v_slices]
  | trap =>
    rw [encode, decode_groupV hasMul (formatI6v_slices _ _).1]
    simp [decodeV, formatI6v_slices]
  | not | neg | abs | sext8 | sext16 | rlc | rrc | swap | tret | st8d | st16d | fill8 | fill16 | mstep | skprz
    | wrctl | rdctl | skprnz | jmp | call =>
    rw [encode, decode_groupW hasMul (formatRw_slices _ _).1]
    simp [decodeW, formatRw_slices]
  | mul =>
    have hmul : hasMul = true := hi
    rw [encode, decode_groupW hasMul (formatRw_slices _ _).1]
    simp [decodeW, formatRw_slices, hmul]
  | restore =>
    rw [encode, decode_groupW hasMul (formatW_slices _).1]
    simp [decodeW, formatW_slices]
  | skps =>
    have hcond := of_decide_eq_true hi
    rw [encode, decode_groupW hasMul (formatI4w_slices _ _).1]
    simp [decodeW, formatI4w_slices, hcond]
  | br | bsr | pfx => simp [encode, decode, formatI11_slices]
  | stp | ldp => simp [encode, decode, formatRPi5_slices]
  | sts | lds => simp [encode, decode, formatRi8_slices]

/-! ## The bytes of a half-word -/

/-- The two bytes of a half-word, the low one first, make it up again (R91). -/
theorem halfOfBytes_slices (w : Half) : halfOfBytes (w.extractLsb' 0 8) (w.extractLsb' 8 8) = w := by
  apply BitVec.eq_of_toNat_eq
  rw [halfOfBytes, append_toNat, BitVec.extractLsb'_toNat, BitVec.extractLsb'_toNat, Nat.shiftRight_eq_div_pow,
    Nat.shiftRight_eq_div_pow]
  omega

/-- The decoder reads the half-word that the first two bytes make up, and leaves the bytes after them. -/
theorem decodeBytes_of_decode {hasMul : Bool} {b0 b1 : Byte} {i : Instr} (rest : List Byte)
    (h : decode hasMul (halfOfBytes b0 b1) = .ok i) : decodeBytes hasMul (b0 :: b1 :: rest) = .ok (i, rest) := by
  simp [decodeBytes, h]

end Sys2Proof

namespace Sys2Proof.Machine

/-- Settles O5: either way the two bytes make up the instruction's word, and `decode_encode` gives the instruction. -/
theorem instructionBytesAreFetchedLittleEndian : Obligations.InstructionBytesAreFetchedLittleEndian := by
  refine ⟨fun hasMul i rest hi => ?_, fun s i hi hlow hhigh hpopulated hstored => ?_⟩
  · apply decodeBytes_of_decode
    rw [halfOfBytes_slices, decode_encode hi]
  · have hword : encode i = Memory.readHalf s.mem s.pc.toNat := by
      rw [Memory.readHalf, hlow, hhigh, halfOfBytes_slices]
    exact fetchInstr_eq_next.mpr
      ⟨encode i, fetchHalf_eq_next.mpr ⟨hpopulated, hstored, hword⟩, decode_encode hi⟩

end Sys2Proof.Machine
end

section
/-! The round trip of 30_encoding as the obligation states it. -/

namespace Sys2Proof

/-- Settles O1: it is `decode_encode`. -/
theorem decodeOfEncodeIsTheInstruction : Obligations.DecodeOfEncodeIsTheInstruction :=
  fun _ _ => decode_encode

end Sys2Proof
end

section
/-! How long a PFX lasts (10_state R51, 30_encoding R145): an instruction that completes leaves K = 0 and P = 0, and
one that does not read K and P does not depend on them. The second rests on `State.withPrefix`: what such an instruction
reads is the same with every K and P, and each end of an instruction clears both. -/

namespace Sys2Proof.Machine

/-! ## After the instruction -/

/-- The entry into an exception clears K and P (R380). -/
theorem enterException_clears_prefix {s t : State} {n : BitVec 6} {ret : Addr} {dec : Bool}
    (h : enterException s n ret dec = .next t) : t.k = 0#11 ∧ t.p = false := by
  obtain ⟨d, -, -, rfl⟩ := enterException_eq_next.mp h
  exact ⟨rfl, rfl⟩

/-- Every shape of instruction but that of PFX clears K and P (R51). -/
theorem left_clears_prefix {i : Instr} {s t : State} (hpfx : ∀ imm11, i ≠ .pfx imm11) (h : Left s i t) :
    t.k = 0#11 ∧ t.p = false := by
  cases h with
  | prefixed imm11 => exact absurd rfl (hpfx imm11)
  | savedUnderflow _ _ _ _ _ enter | restoredOverflow _ enter | trapped _ _ _ enter =>
    exact enterException_clears_prefix enter
  | _ => exact ⟨rfl, rfl⟩

/-! ## States that differ in K and P -/

/-- The state `s` with `k` and `p` in place of its own K and P. -/
def State.withPrefix (s : State) (k : BitVec 11) (p : Bool) : State := { s with k := k, p := p }

section
variable {s : State} {k : BitVec 11} {p : Bool}

/-! What an instruction reads, other than K and P. -/

@[simp] theorem State.withPrefix_cfg : (s.withPrefix k p).cfg = s.cfg := rfl
@[simp] theorem State.withPrefix_pc : (s.withPrefix k p).pc = s.pc := rfl
@[simp] theorem State.withPrefix_status : (s.withPrefix k p).status = s.status := rfl
@[simp] theorem readReg_withPrefix (r : RegIx) : readReg (s.withPrefix k p) r = readReg s r := rfl
@[simp] theorem memReadWord_withPrefix (a : Word) : memReadWord (s.withPrefix k p) a = memReadWord s a := rfl
@[simp] theorem fetchHalf_withPrefix (a : Addr) : fetchHalf (s.withPrefix k p) a = fetchHalf s a := rfl

/-! The flags are written with K and P still there. -/

@[simp] theorem State.withPrefix_setFlags (f : Flags) :
    (s.withPrefix k p).setFlags f = (s.setFlags f).withPrefix k p := rfl

/-! The ends of an instruction, which clear K and P. -/

@[simp] theorem State.withPrefix_finish : (s.withPrefix k p).finish = s.finish := rfl
@[simp] theorem State.withPrefix_clearPfx : (s.withPrefix k p).clearPfx = s.clearPfx := rfl
@[simp] theorem State.withPrefix_branchTo (a : Addr) : (s.withPrefix k p).branchTo a = s.branchTo a := rfl
@[simp] theorem State.withPrefix_returnTo (a : Addr) : (s.withPrefix k p).returnTo a = s.returnTo a := rfl

/-! ## Shared operations with other K and P -/

/-- A write of a register passes K and P on, so what follows it has to clear them. -/
theorem writeReg_andThen_withPrefix {f g : State → Result State} (hclear : ∀ t, f (t.withPrefix k p) = g t)
    (r : RegIx) (v : Word) : andThen (writeReg (s.withPrefix k p) r v) f = andThen (writeReg s r v) g := by
  cases hr : s.phys r with
  | none => rw [writeReg_of_none v hr, writeReg_of_none (s := s.withPrefix k p) v hr]; rfl
  | some i => rw [writeReg_of_phys v hr, writeReg_of_phys (s := s.withPrefix k p) v hr]; exact hclear (s.setPhys i v)

/-- The same of a store. -/
theorem memWrite_andThen_withPrefix {f g : State → Result State} (hclear : ∀ t, f (t.withPrefix k p) = g t)
    (a : Word) (bs : List Byte) : andThen (memWrite (s.withPrefix k p) a bs) f = andThen (memWrite s a bs) g := by
  unfold memWrite
  rw [State.withPrefix_cfg]
  split
  · exact hclear (s.store a.toNat bs)
  · rfl

@[simp] theorem writeAndFinish_withPrefix (a : RegIx) (v : Word) :
    writeAndFinish (s.withPrefix k p) a v = writeAndFinish s a v :=
  writeReg_andThen_withPrefix (fun _ => rfl) a v

@[simp] theorem writeFlagsAndFinish_withPrefix (a : RegIx) (v : Word) (f : Flags) :
    writeFlagsAndFinish (s.withPrefix k p) a v f = writeFlagsAndFinish s a v f := by
  simp [writeFlagsAndFinish]

theorem unaryOp_withPrefix (d a : RegIx) (f : Word → Word) :
    unaryOp (s.withPrefix k p) d a f = unaryOp s d a f := by
  simp [unaryOp]

@[simp] theorem binaryOp_withPrefix (d a b : RegIx) (f : Word → Word → Word) :
    binaryOp (s.withPrefix k p) d a b f = binaryOp s d a b f := by
  simp [binaryOp]

theorem arithReg_withPrefix (a b : RegIx) (f : Word → Word → Word × Flags) :
    arithReg (s.withPrefix k p) a b f = arithReg s a b f := by
  simp [arithReg]

theorem rotateOp_withPrefix (a : RegIx) (f : Word → Bool → Word × Bool) :
    rotateOp (s.withPrefix k p) a f = rotateOp s a f := by
  simp [rotateOp]

@[simp] theorem loadOp_withPrefix (a : RegIx) (ea : Word) : loadOp (s.withPrefix k p) a ea = loadOp s a ea := by
  simp [loadOp]

@[simp] theorem storeOp_withPrefix (ea : Word) (bs : List Byte) :
    storeOp (s.withPrefix k p) ea bs = storeOp s ea bs :=
  memWrite_andThen_withPrefix (fun _ => rfl) ea bs

@[simp] theorem skipOp_withPrefix (cond : Bool) : skipOp (s.withPrefix k p) cond = skipOp s cond := by
  simp [skipOp]

@[simp] theorem outsideDelaySlot_withPrefix (body : Result State) :
    outsideDelaySlot (s.withPrefix k p) body = outsideDelaySlot s body := rfl

@[simp] theorem enterException_withPrefix (n : BitVec 6) (ret : Addr) (dec : Bool) :
    enterException (s.withPrefix k p) n ret dec = enterException s n ret dec :=
  writeReg_andThen_withPrefix (s := s.enterStatus n dec) (fun _ => rfl) regO7 (returnValue ret)

/-! ## The instructions that do not read K and P -/

/-- BSR and CALL: %o7 written, then the branch. -/
theorem linkAndBranch_withPrefix (v : Word) (target : Addr) :
    andThen (writeReg (s.withPrefix k p) regO7 v) (fun t => .next (t.branchTo target)) =
      andThen (writeReg s regO7 v) fun t => .next (t.branchTo target) :=
  writeReg_andThen_withPrefix (fun _ => rfl) regO7 v

/-- The four skips on a register. -/
theorem skipOnReg_withPrefix (a : RegIx) (cond : Word → Bool) :
    outsideDelaySlot (s.withPrefix k p) (andThen (readReg (s.withPrefix k p) a) fun x =>
        skipOp (s.withPrefix k p) (cond x)) =
      outsideDelaySlot s (andThen (readReg s a) fun x => skipOp s (cond x)) := by
  simp

/-- The three stores relative to %sp. -/
theorem storeAtSp_withPrefix (a : RegIx) (ea : Word → Word) (bs : Word → List Byte) :
    (andThen (readReg (s.withPrefix k p) regSp) fun sp => andThen (readReg (s.withPrefix k p) a) fun v =>
        storeOp (s.withPrefix k p) (ea sp) (bs v)) =
      andThen (readReg s regSp) fun sp => andThen (readReg s a) fun v => storeOp s (ea sp) (bs v) := by
  simp

/-- SAVE writes %sp and ends before it looks for an underflow, so that K and P are cleared by then. -/
theorem execSave_withPrefix (imm8 : BitVec 8) : execSave imm8 (s.withPrefix k p) = execSave imm8 s := by
  unfold execSave
  rw [readReg_withPrefix]
  congr 1
  funext fp
  exact writeReg_andThen_withPrefix (s := s.setCwp (s.status.cwp - 1#5)) (fun _ => rfl) regSp _

/-- RESTORE moves the window and ends before it looks for an overflow, so that K and P are cleared by then. -/
theorem execRestore_withPrefix : execRestore (s.withPrefix k p) = execRestore s := rfl

/-- An instruction of R145's row "not read" does the same with every K and P (D37, log 31). -/
theorem exec_withPrefix {i : Instr} (hi : ignoresPrefix i = true) : exec i (s.withPrefix k p) = exec i s := by
  cases i with
  | add | sub => exact arithReg_withPrefix _ _ _
  | cmp => simp [exec, execCmp]
  | rlc | rrc => exact rotateOp_withPrefix _ _
  | mov | lsli | lsri | asri | ext8s | ext16s | not | neg | abs | sext8 | sext16 | swap | fill8 | fill16 =>
    exact unaryOp_withPrefix _ _ _
  | lsl | lsr | asr | ext8d | ext16d => exact binaryOp_withPrefix _ _ _ _
  | mstep => simp [exec, execMstep]
  | mul => simp [exec, execMul]
  | bgen => exact writeAndFinish_withPrefix _ _
  | lds => simp [exec, execLds]
  | sts | sts8s | sts16s => exact storeAtSp_withPrefix _ _ _
  | br => simp [exec, execBr]
  | bsr => simp [exec, execBsr, linkAndBranch_withPrefix]
  | jmp => simp [exec, execJmp]
  | call => simp [exec, execCall, linkAndBranch_withPrefix]
  | skp0 | skp1 | skprz | skprnz => exact skipOnReg_withPrefix _ _
  | skps => simp [exec, execSkps]
  | save => exact execSave_withPrefix _
  | restore => exact execRestore_withPrefix
  | trap => simp [exec, execTrap]
  | tret => simp [exec, execTret]
  | addi | subi | cmpi | movi | and | andn | or | xor | ld | st | movhi | st8s | st16s | st8d | st16d | wrctl | rdctl
    | pfx | stp | ldp => exact nomatch hi

end

/-- Settles O37, from `left_clears_prefix` and `exec_withPrefix`. -/
theorem prefixLastsOneInstruction : Obligations.PrefixLastsOneInstruction :=
  fun _ _ => ⟨fun hpfx _ h => left_clears_prefix hpfx (exec_left h), fun hi _ _ => exec_withPrefix hi⟩

end Sys2Proof.Machine
end

section
/-! How the arithmetic shapes of instruction end (40_arithmetic R182 to R191): with the registers they name in place,
each completes by way of `finish()` in the state its rule writes down. -/

namespace Sys2Proof.Machine

/-! ## Ends of the shared operations -/

section
variable {s : State}

/-- `finish()` taken in a state `u` whose program flow is that of `s`. -/
theorem endsAs_of_finish {u : State} {r : Result State} (h : r = .next u.finish) (hb : u.bt = s.bt)
    (hp : u.pc = s.pc) : ∃ t, r = .next t ∧ s.endsAs u t :=
  ⟨u.finish, h, finish_endsAs s u hb hp⟩

theorem unaryOp_endsAs {d a : RegIx} {f : Word → Word} {i j : Fin 512} {v : Word} (ha : s.phys a = some i)
    (hd : s.phys d = some j) (hv : f (s.regs.get i) = v) :
    ∃ t, unaryOp s d a f = .next t ∧ s.endsAs (s.setPhys j v) t := by
  subst hv
  exact endsAs_of_finish (unaryOp_eq_next.mpr ⟨i, j, ha, hd, rfl⟩) rfl rfl

theorem arithReg_endsAs {a b : RegIx} {f : Word → Word → Word × Flags} {i j : Fin 512} {v : Word} {fl : Flags}
    (ha : s.phys a = some i) (hb : s.phys b = some j) (hf : f (s.regs.get i) (s.regs.get j) = (v, fl)) :
    ∃ t, arithReg s a b f = .next t ∧ s.endsAs ((s.setFlags fl).setPhys i v) t := by
  refine endsAs_of_finish (arithReg_eq_next.mpr ⟨i, j, ha, hb, ?_⟩) rfl rfl
  rw [hf]

theorem arithImm_endsAs {a : RegIx} {imm5 : BitVec 5} {f : Word → Word → Word × Flags} {i : Fin 512} {v : Word}
    {fl : Flags} (ha : s.phys a = some i)
    (hf : f (s.regs.get i) (BitVec.ofNat 32 (prefixedConstant s.k imm5)) = (v, fl)) :
    ∃ t, arithImm s a imm5 f = .next t ∧ s.endsAs ((s.setFlags fl).setPhys i v) t := by
  refine endsAs_of_finish (arithImm_eq_next.mpr ⟨i, ha, ?_⟩) rfl rfl
  rw [zextImm_eq, hf]

end

/-! ## Flags in the words of Table 7 -/

/-- V of R180 in the words of Table 7: operands of one sign give a result of the other exactly where bit 31 is not the
sign of the unlimited sum. -/
theorem sum_overflow_eq (x y : Word) :
    (decide (x.msb = y.msb) && (x + y).msb != x.msb) = ((x + y).msb != decide (x.toInt + y.toInt < 0)) := by
  have hx := x.isLt
  have hy := y.isLt
  simp only [BitVec.msb_eq_decide, BitVec.toInt_eq_toNat_cond, BitVec.toNat_add]
  grind

/-- V of R181 in the words of Table 7: operands of two signs give a result of the second one's sign exactly where bit 31
is not the sign of the unlimited difference. -/
theorem difference_overflow_eq (x y : Word) :
    (x.msb != y.msb && (x - y).msb != x.msb) = ((x - y).msb != decide (x.toInt - y.toInt < 0)) := by
  have hx := x.isLt
  have hy := y.isLt
  simp only [BitVec.msb_eq_decide, BitVec.toInt_eq_toNat_cond, BitVec.toNat_sub]
  grind

theorem addFlags_eq (x y : Word) : addFlags x y = (x + y, sumFlags x y) := by
  simp [addFlags, sumFlags, beq_eq_decide, sum_overflow_eq]

theorem subFlags_eq (x y : Word) : subFlags x y = (x - y, differenceFlags x y) := by
  simp [subFlags, differenceFlags, beq_eq_decide, difference_overflow_eq]

/-! ## Addition, subtraction, comparison -/

/-- Settles O11: the ends of `arithReg` and `arithImm` with the pair of `addFlags_eq`. -/
theorem additionWritesSumAndFlags : Obligations.AdditionWritesSumAndFlags := by
  intro s a b imm5 i ha
  exact ⟨rfl, rfl, fun j hb => arithReg_endsAs ha hb (addFlags_eq _ _), arithImm_endsAs ha (addFlags_eq _ _)⟩

/-- Settles O12: the ends of `arithReg` and `arithImm` with the pair of `subFlags_eq`. -/
theorem subtractionWritesDifferenceAndFlags : Obligations.SubtractionWritesDifferenceAndFlags := by
  intro s a b imm5 i ha
  exact ⟨rfl, rfl, fun j hb => arithReg_endsAs ha hb (subFlags_eq _ _), arithImm_endsAs ha (subFlags_eq _ _)⟩

theorem exec_cmp {s : State} {a b : RegIx} {i j : Fin 512} (ha : s.phys a = some i) (hb : s.phys b = some j) :
    exec (.cmp a b) s = .next (s.setFlags (differenceFlags (s.regs.get i) (s.regs.get j))).finish := by
  simp [exec, execCmp, readReg_of_phys ha, readReg_of_phys hb, subFlags_eq]

theorem exec_cmpi {s : State} {a : RegIx} {imm5 : BitVec 5} {i : Fin 512} (ha : s.phys a = some i) :
    exec (.cmpi a imm5) s =
      .next (s.setFlags
        (differenceFlags (s.regs.get i) (BitVec.ofNat 32 (prefixedConstant s.k imm5)))).finish := by
  simp [exec, execCmpi, readReg_of_phys ha, zextImm_eq, subFlags_eq]

/-- Settles O13, from `exec_cmp` and `exec_cmpi`. -/
theorem compareWritesOnlyTheFlags : Obligations.CompareWritesOnlyTheFlags := by
  intro s a b imm5 i ha
  exact ⟨rfl, rfl, fun j hb => endsAs_of_finish (exec_cmp ha hb) rfl rfl, endsAs_of_finish (exec_cmpi ha) rfl rfl⟩

/-! ## Negation, absolute value, complement -/

/-- The subtraction from 0 of R188 and R189 is the negation of the number, modulo 2^32. -/
theorem zero_sub_eq_ofInt_neg (x : Word) : 0#32 - x = BitVec.ofInt 32 (-x.toInt) := by
  rw [BitVec.zero_sub, BitVec.ofInt_neg, BitVec.ofInt_toInt]

/-- Bit 31 is the sign. -/
theorem bit31_iff_toInt_neg (x : Word) : x.getLsbD 31 = true ↔ x.toInt < 0 := by
  rw [← decide_eq_true_iff (p := x.toInt < 0), ← BitVec.msb_eq_toInt, BitVec.msb_eq_getLsbD_last]

theorem not_eq_ofNat (x : Word) : ~~~x = BitVec.ofNat 32 (2 ^ 32 - 1 - x.toNat) := by
  apply BitVec.eq_of_toNat_eq
  rw [BitVec.toNat_not, BitVec.toNat_ofNat]
  omega

/-- Settles O15: each is a `unaryOp`, whose value the three lemmas above give as a number. -/
theorem negateAbsoluteAndNotWriteNoFlag : Obligations.NegateAbsoluteAndNotWriteNoFlag := by
  intro s a i ha
  refine ⟨rfl, rfl, rfl, unaryOp_endsAs ha ha ?_, unaryOp_endsAs ha ha (zero_sub_eq_ofInt_neg _),
    unaryOp_endsAs ha ha (not_eq_ofNat _)⟩
  simp only [bit31_iff_toInt_neg, zero_sub_eq_ofInt_neg]

/-! ## The multiply step -/

/-- What MSTEP makes of %r0 = `x` and x[A] = `y`, as a number (R191). -/
def mstepNat (x y : Nat) : Nat := 2 * x + if 2 ^ 31 ≤ x then y else 0

/-- The shift and the conditional addition of R191 are `mstepNat`, modulo 2^32. -/
theorem mstep_eq_mstepNat (x y : Word) :
    (if x.getLsbD 31 then (x <<< 1) + y else x <<< 1) = BitVec.ofNat 32 (mstepNat x.toNat y.toNat) := by
  have hbit : x.getLsbD 31 = true ↔ 2 ^ 31 ≤ x.toNat := by
    rw [← decide_eq_true_iff (p := 2 ^ 31 ≤ x.toNat), ← BitVec.msb_eq_decide x, BitVec.msb_eq_getLsbD_last]
  simp only [hbit, mstepNat]
  apply BitVec.eq_of_toNat_eq
  split <;> simp [Nat.shiftLeft_eq, Nat.mul_comm]

theorem exec_mstep {s : State} {a : RegIx} {i z : Fin 512} (ha : s.phys a = some i) (hz : s.phys 0#5 = some z) :
    exec (.mstep a) s =
      .next (s.setPhys z (BitVec.ofNat 32 (mstepNat (s.regs.get z).toNat (s.regs.get i).toNat))).finish := by
  rw [exec, execMstep, ← mstep_eq_mstepNat]
  exact binaryOp_eq_next.mpr ⟨z, i, z, hz, ha, hz, rfl⟩

/-- Settles O16, from `exec_mstep`. -/
theorem multiplyStepDoublesAndAdds : Obligations.MultiplyStepDoublesAndAdds := by
  intro s a i z ha hz
  exact ⟨rfl, endsAs_of_finish (exec_mstep ha hz) rfl rfl⟩

end Sys2Proof.Machine
end

section
/-! The multiply idiom (40_arithmetic R192). SWAP puts the multiplier `m` into the upper half of %r0. Each MSTEP takes
the highest bit of `m` still there out at bit 31 and adds it into the product that grows from bit 0: the two parts never
meet, which `partialProduct` and `mstepNat_partialProduct` say. -/

namespace Sys2Proof.Machine

/-! ## The number in %r0 -/

/-- %r0 after `k` steps: the low `16 - k` bits of `m` on top, and the product of its high `k` bits and `n` below. -/
def partialProduct (m n k : Nat) : Nat := m % 2 ^ (16 - k) * 2 ^ (16 + k) + m / 2 ^ (16 - k) * n

theorem partialProduct_zero {m : Nat} (n : Nat) (hm : m < 2 ^ 16) : partialProduct m n 0 = m * 2 ^ 16 := by
  rw [partialProduct, Nat.mod_eq_of_lt hm, Nat.div_eq_of_lt hm, Nat.zero_mul, Nat.add_zero]

theorem partialProduct_sixteen (m n : Nat) : partialProduct m n 16 = m * n := by
  simp [partialProduct, Nat.mod_one]

/-- The product of the high `k` bits of `m` and `n` stays below the rest of `m`. -/
theorem high_bits_product_lt {m n k : Nat} (hm : m < 2 ^ 16) (hn : n < 2 ^ 16) (hk : k ≤ 16) :
    m / 2 ^ (16 - k) * n < 2 ^ (16 + k) := by
  have hhigh : m / 2 ^ (16 - k) < 2 ^ k := by
    rw [Nat.div_lt_iff_lt_mul (by positivity), ← pow_add]
    exact hm.trans_eq (congrArg (2 ^ ·) (by omega))
  rw [pow_add, Nat.mul_comm (2 ^ 16)]
  exact Nat.mul_lt_mul'' hhigh hn

theorem partialProduct_lt {m n k : Nat} (hm : m < 2 ^ 16) (hn : n < 2 ^ 16) (hk : k ≤ 16) :
    partialProduct m n k < 2 ^ 32 := by
  have hlow : m % 2 ^ (16 - k) + 1 ≤ 2 ^ (16 - k) := Nat.mod_lt m (by positivity)
  calc partialProduct m n k
      < (m % 2 ^ (16 - k) + 1) * 2 ^ (16 + k) := by
        rw [Nat.add_one_mul]
        exact Nat.add_lt_add_left (high_bits_product_lt hm hn hk) _
    _ ≤ 2 ^ (16 - k) * 2 ^ (16 + k) := Nat.mul_le_mul_right _ hlow
    _ = 2 ^ 32 := by
        rw [← pow_add]
        exact congrArg (2 ^ ·) (by omega)

/-- The bit of `m` that stands at bit 31 of %r0 after `k` steps. -/
def topBit (m k : Nat) : Nat := m / 2 ^ (15 - k) % 2

/-- What stands below that bit. -/
def belowTopBit (m n k : Nat) : Nat := m % 2 ^ (15 - k) * 2 ^ (16 + k) + m / 2 ^ (16 - k) * n

theorem pow_sub_eq_double {k : Nat} (hk : k < 16) : 2 ^ (16 - k) = 2 ^ (15 - k) * 2 := by
  rw [← pow_succ]
  exact congrArg (2 ^ ·) (by omega)

/-- %r0 before the step: the top bit and the rest. -/
theorem partialProduct_eq {k : Nat} (m n : Nat) (hk : k < 16) :
    partialProduct m n k = topBit m k * 2 ^ 31 + belowTopBit m n k := by
  have hmod : m % 2 ^ (16 - k) = m % 2 ^ (15 - k) + 2 ^ (15 - k) * topBit m k := by
    rw [pow_sub_eq_double hk, Nat.mod_mul, topBit]
  have hpow : 2 ^ (15 - k) * 2 ^ (16 + k) = 2 ^ 31 := by
    rw [← pow_add]
    exact congrArg (2 ^ ·) (by omega)
  rw [partialProduct, belowTopBit, hmod, ← hpow]
  ring

/-- %r0 after the step: the rest doubled, and `n` if the top bit was 1. -/
theorem partialProduct_succ {k : Nat} (m n : Nat) (hk : k < 16) :
    partialProduct m n (k + 1) = 2 * belowTopBit m n k + topBit m k * n := by
  have hdiv : m / 2 ^ (15 - k) = 2 * (m / 2 ^ (16 - k)) + topBit m k := by
    rw [pow_sub_eq_double hk, ← Nat.div_div_eq_div_mul, topBit, Nat.div_add_mod]
  have hexp : 16 - (k + 1) = 15 - k := by omega
  rw [partialProduct, belowTopBit, hexp, hdiv]
  ring

/-- One step: the top bit leaves %r0, and `n` is added where it was 1. -/
theorem mstepNat_partialProduct {m n k : Nat} (hm : m < 2 ^ 16) (hn : n < 2 ^ 16) (hk : k < 16) :
    mstepNat (partialProduct m n k) n % 2 ^ 32 = partialProduct m n (k + 1) := by
  have hfits := partialProduct_lt hm hn (Nat.succ_le_of_lt hk)
  rw [partialProduct_succ m n hk] at hfits ⊢
  rw [partialProduct_eq m n hk, mstepNat]
  rcases Nat.mod_two_eq_zero_or_one (m / 2 ^ (15 - k)) with hbit | hbit
  · rw [topBit, hbit] at hfits ⊢
    rw [if_neg (by omega)]
    omega
  · rw [topBit, hbit] at hfits ⊢
    rw [if_pos (by omega)]
    omega

/-! ## The state after each step -/

/-- %r0 and %r1 are global (R33). -/
theorem State.phys_zero (s : State) : s.phys 0#5 = some 0 := physReg_global (by decide)

theorem State.phys_one (s : State) : s.phys 1#5 = some 1 := physReg_global (by decide)

/-- `s` after the SWAP and `k` steps. -/
def State.afterMsteps (s : State) (m n k : Nat) : State :=
  { s.setPhys 0 (BitVec.ofNat 32 (partialProduct m n k)) with
    k := 0#11
    p := false
    pc := s.pc + BitVec.ofNat 33 (2 * (k + 1)) }

/-- `finish()` outside a delay slot. -/
theorem State.finish_of_none {s : State} (h : s.bt = none) :
    s.finish = { s with k := 0#11, p := false, pc := s.pc + 2#33 } := by
  simp [State.finish, State.nextPc, h]

/-- SWAP of a number below 2^16 moves it to the upper half (R222). -/
theorem swap_low_half {m : Nat} (hm : m < 2 ^ 16) :
    (BitVec.ofNat 32 m).extractLsb' 0 16 ++ (BitVec.ofNat 32 m).extractLsb' 16 16 = BitVec.ofNat 32 (m * 2 ^ 16) := by
  apply BitVec.eq_of_toNat_eq
  rw [append_toNat]
  simp only [BitVec.extractLsb'_toNat, BitVec.toNat_ofNat, Nat.shiftRight_eq_div_pow]
  omega

section
variable {s : State} {m n : Nat}

/-- The SWAP, which leaves the state before the first step. -/
theorem exec_swap_afterMsteps (hm : m < 2 ^ 16) (hbt : s.bt = none) (h0 : s.regs.get 0 = BitVec.ofNat 32 m) :
    exec (.swap 0#5) s = .next (s.afterMsteps m n 0) := by
  have hswap : exec (.swap 0#5) s = .next (s.setPhys 0 (BitVec.ofNat 32 (m * 2 ^ 16))).finish := by
    rw [exec, execSwap, ← swap_low_half hm, ← h0]
    exact unaryOp_eq_next.mpr ⟨0, 0, s.phys_zero, s.phys_zero, rfl⟩
  rw [hswap, State.finish_of_none (s := s.setPhys 0 _) hbt, ← partialProduct_zero n hm]
  rfl

/-- Step `k + 1`. -/
theorem exec_mstep_afterMsteps {k : Nat} (hm : m < 2 ^ 16) (hn : n < 2 ^ 16) (hbt : s.bt = none)
    (h1 : s.regs.get 1 = BitVec.ofNat 32 n) (hk : k < 16) :
    exec (.mstep 1#5) (s.afterMsteps m n k) = .next (s.afterMsteps m n (k + 1)) := by
  have hacc : (s.afterMsteps m n k).regs.get 0 = BitVec.ofNat 32 (partialProduct m n k) := s.setPhys_get_self 0 _
  have hfactor : (s.afterMsteps m n k).regs.get 1 = BitVec.ofNat 32 n :=
    (s.setPhys_get_of_ne 0 1 _ (by decide)).trans h1
  have hvalue :
      BitVec.ofNat 32 (mstepNat (BitVec.ofNat 32 (partialProduct m n k)).toNat (BitVec.ofNat 32 n).toNat) =
        BitVec.ofNat 32 (partialProduct m n (k + 1)) := by
    apply BitVec.eq_of_toNat_eq
    have hn32 : n < 2 ^ 32 := by omega
    simp only [BitVec.toNat_ofNat, Nat.mod_eq_of_lt (partialProduct_lt hm hn hk.le), Nat.mod_eq_of_lt hn32,
      mstepNat_partialProduct hm hn hk, Nat.mod_eq_of_lt (partialProduct_lt hm hn hk)]
  have hpc : s.pc + BitVec.ofNat 33 (2 * (k + 1)) + 2#33 = s.pc + BitVec.ofNat 33 (2 * (k + 1 + 1)) := by
    rw [BitVec.add_assoc, ← BitVec.ofNat_add]
    rfl
  rw [exec_mstep (State.phys_one _) (State.phys_zero _), hacc, hfactor, hvalue,
    State.finish_of_none (s := (s.afterMsteps m n k).setPhys 0 _) hbt]
  simp [State.afterMsteps, State.setPhys, hpc]

/-- As many steps as are left. -/
theorem execAll_msteps_afterMsteps {j k : Nat} (hm : m < 2 ^ 16) (hn : n < 2 ^ 16) (hbt : s.bt = none)
    (h1 : s.regs.get 1 = BitVec.ofNat 32 n) (hjk : k + j ≤ 16) :
    execAll (List.replicate j (.mstep 1#5)) (s.afterMsteps m n k) = .next (s.afterMsteps m n (k + j)) := by
  induction j generalizing k with
  | zero => rfl
  | succ j ih =>
    rw [List.replicate_succ, execAll_cons (exec_mstep_afterMsteps hm hn hbt h1 (by omega)), ih (by omega),
      Nat.add_right_comm, Nat.add_assoc]

end

/-- Settles O18: the SWAP, the sixteen steps, and the product that is left. -/
theorem swapAndSixteenStepsMultiply : Obligations.SwapAndSixteenStepsMultiply := by
  intro s m n hm hn hbt h0 h1
  rw [execAll_cons (exec_swap_afterMsteps hm hbt h0), execAll_msteps_afterMsteps hm hn hbt h1 (by omega),
    State.afterMsteps, partialProduct_sixteen]
  rfl

end Sys2Proof.Machine
end

section
/-! How the logic, move, extension, extract and fill instructions end (41_logic_move_extract R210 to R229): each
completes by way of `finish()` with one register written, whose value the lemmas on slices give as a number. -/

namespace Sys2Proof.Machine

/-! ## Ends of the shared operations -/

section
variable {s : State}

theorem writeAndFinish_endsAs {a : RegIx} {i : Fin 512} {v w : Word} (ha : s.phys a = some i) (hv : v = w) :
    ∃ t, writeAndFinish s a v = .next t ∧ s.endsAs (s.setPhys i w) t := by
  subst hv
  exact endsAs_of_finish (writeAndFinish_eq_next.mpr ⟨i, ha, rfl⟩) rfl rfl

theorem binaryOp_endsAs {d a b : RegIx} {f : Word → Word → Word} {i j d' : Fin 512} {v : Word}
    (ha : s.phys a = some i) (hb : s.phys b = some j) (hd : s.phys d = some d')
    (hv : f (s.regs.get i) (s.regs.get j) = v) :
    ∃ t, binaryOp s d a b f = .next t ∧ s.endsAs (s.setPhys d' v) t := by
  subst hv
  exact endsAs_of_finish (binaryOp_eq_next.mpr ⟨i, j, d', ha, hb, hd, rfl⟩) rfl rfl

theorem logicFlags_eq (r : Word) (f : Flags) : logicFlags r f = signAndZero r f := by
  simp [logicFlags, signAndZero, beq_eq_decide]

theorem logicOp_endsAs {a : RegIx} {bi : BitVec 5} {i : Fin 512} {y : Word} (f : Word → Word → Word)
    (ha : s.phys a = some i) (hy : logicOperand s bi = .next y) :
    ∃ t, logicOp s a bi f = .next t ∧
      s.endsAs
        ((s.setFlags (signAndZero (f (s.regs.get i) y) s.status.flags)).setPhys i (f (s.regs.get i) y)) t := by
  refine endsAs_of_finish (logicOp_eq_next.mpr ⟨i, y, ha, hy, ?_⟩) rfl rfl
  rw [logicFlags_eq]

end

/-! ## Logic -/

/-- Settles O19: both forms of the second operand are a `logicOperand`, and the four instructions are one `logicOp`. -/
theorem logicInBothForms : Obligations.LogicInBothForms := by
  intro s a bi i y ha hform
  have hy : logicOperand s bi = .next y := by
    rw [logicOperand_eq_next, zextImm_eq]
    exact hform
  exact ⟨rfl, rfl, rfl, rfl, logicOp_endsAs _ ha hy, logicOp_endsAs _ ha hy, logicOp_endsAs _ ha hy,
    logicOp_endsAs _ ha hy⟩

/-! ## Slices as numbers -/

/-- A slice of a register, zero-extended: a quotient and a remainder (R10). -/
theorem zeroExtend_slice_eq (x : Word) (start len : Nat) :
    (x.extractLsb' start len).zeroExtend 32 = BitVec.ofNat 32 (x.toNat / 2 ^ start % 2 ^ len) := by
  apply BitVec.eq_of_toNat_eq
  rw [BitVec.zeroExtend, BitVec.toNat_setWidth, BitVec.extractLsb'_toNat, Nat.shiftRight_eq_div_pow, BitVec.toNat_ofNat]

theorem imm16_toNat (k : BitVec 11) (imm5 : BitVec 5) : (imm16 k imm5).toNat = prefixedConstant k imm5 := by
  rw [imm16, append_toNat, prefixedConstant, Nat.mul_comm]
  rfl

/-- MOVHI's new register: the constant above the low half-word. -/
theorem movhi_eq (k : BitVec 11) (imm5 : BitVec 5) (x : Word) :
    imm16 k imm5 ++ x.extractLsb' 0 16 = BitVec.ofNat 32 (2 ^ 16 * prefixedConstant k imm5 + x.toNat % 2 ^ 16) := by
  apply BitVec.eq_of_toNat_eq
  have hk := (imm16 k imm5).isLt
  rw [append_toNat, imm16_toNat, BitVec.extractLsb'_toNat, BitVec.toNat_ofNat, Nat.shiftRight_zero]
  rw [imm16_toNat] at hk
  omega

/-- BGEN's register. -/
theorem one_shiftLeft_eq (n : Nat) : 1#32 <<< n = BitVec.ofNat 32 (2 ^ n) := by
  apply BitVec.eq_of_toNat_eq
  simp [Nat.shiftLeft_eq]

/-- SWAP's register: the low half-word above the high one. -/
theorem swap_eq (x : Word) :
    x.extractLsb' 0 16 ++ x.extractLsb' 16 16 = BitVec.ofNat 32 (2 ^ 16 * (x.toNat % 2 ^ 16) + x.toNat / 2 ^ 16) := by
  apply BitVec.eq_of_toNat_eq
  have hhigh : x.toNat / 2 ^ 16 < 2 ^ 16 := Nat.div_lt_of_lt_mul x.isLt
  rw [append_toNat, BitVec.extractLsb'_toNat, BitVec.extractLsb'_toNat, BitVec.toNat_ofNat, Nat.shiftRight_zero,
    Nat.shiftRight_eq_div_pow, Nat.mod_eq_of_lt hhigh]
  omega

/-- Four copies of a byte are a multiple of 0x01010101. -/
theorem fill8_eq (b : Byte) : b ++ b ++ b ++ b = BitVec.ofNat 32 (0x01010101 * b.toNat) := by
  apply BitVec.eq_of_toNat_eq
  simp only [append_toNat, BitVec.toNat_ofNat]
  omega

/-- Two copies of a half-word are a multiple of 0x00010001. -/
theorem fill16_eq (h : Half) : h ++ h = BitVec.ofNat 32 (0x00010001 * h.toNat) := by
  apply BitVec.eq_of_toNat_eq
  rw [append_toNat, BitVec.toNat_ofNat]
  omega

/-! ## Extracts -/

/-- The byte numbered `n`, as EXT8d and EXT8s write it. -/
theorem byteLane_eq (x : Word) (n : BitVec 2) :
    (byteLane x n).zeroExtend 32 = BitVec.ofNat 32 (x.toNat / 2 ^ (8 * n.toNat) % 2 ^ 8) :=
  zeroExtend_slice_eq x _ 8

/-- The half-word numbered `n`, as EXT16d and EXT16s write it. -/
theorem halfLane_eq (x : Word) (n : BitVec 1) :
    (halfLane x n).zeroExtend 32 = BitVec.ofNat 32 (x.toNat / 2 ^ (16 * n.toNat) % 2 ^ 16) :=
  zeroExtend_slice_eq x _ 16

/-- Settles O22: the static forms select by their field, the dynamic ones by the slice of x[B] that numbers the lane. -/
theorem extractsSelectAByteOrHalfWord : Obligations.ExtractsSelectAByteOrHalfWord := by
  intro s a b imm2 imm1 i ha
  refine ⟨rfl, rfl, rfl, rfl, fun j hb => ⟨binaryOp_endsAs ha hb ha ?_, binaryOp_endsAs ha hb ha ?_⟩,
    unaryOp_endsAs ha ha (byteLane_eq _ _), unaryOp_endsAs ha ha (halfLane_eq _ _)⟩
  · rw [byteLane_eq, BitVec.extractLsb'_toNat]
    rfl
  · rw [halfLane_eq, BitVec.extractLsb'_toNat, Nat.shiftRight_eq_div_pow]

/-! ## Moves, extensions, fills -/

/-- Settles O20: each is a copy, a constant or a `unaryOp`. -/
theorem movesAndConstants : Obligations.MovesAndConstants := by
  intro s a b imm5 i ha
  exact ⟨rfl, rfl, rfl, rfl, fun j hb => unaryOp_endsAs hb ha rfl, writeAndFinish_endsAs ha (zextImm_eq _ _),
    unaryOp_endsAs ha ha (movhi_eq _ _ _), writeAndFinish_endsAs ha (one_shiftLeft_eq _)⟩

/-- Settles O21: sign extension is by definition the signed value of the slice. -/
theorem signExtensionsAndSwap : Obligations.SignExtensionsAndSwap := by
  intro s a i ha
  exact ⟨rfl, rfl, rfl, unaryOp_endsAs ha ha rfl, unaryOp_endsAs ha ha rfl, unaryOp_endsAs ha ha (swap_eq _)⟩

/-- Settles O23: the copied slice is the low byte or half-word of x[A]. -/
theorem fillsReplicateIntoRegisterZero : Obligations.FillsReplicateIntoRegisterZero := by
  intro s a i z ha hz
  refine ⟨rfl, rfl, unaryOp_endsAs ha hz ?_, unaryOp_endsAs ha hz ?_⟩
  · rw [fill8_eq, BitVec.extractLsb'_toNat]
    rfl
  · rw [fill16_eq, BitVec.extractLsb'_toNat]
    rfl

end Sys2Proof.Machine
end

section
/-! How the six shifts end (42_shift_rotate R251 to R256): the register and the immediate form of each write one word,
which is a product or a quotient by a power of two. -/

namespace Sys2Proof.Machine

/-! ## Shifts as numbers -/

/-- Bits 4:0 of x[B] are its remainder by 32 (R250). -/
theorem shiftCount_eq_mod (y : Word) : shiftCount y = y.toNat % 32 := by
  rw [shiftCount, BitVec.extractLsb'_toNat, Nat.shiftRight_zero]

/-- LSL and LSLI (R251, R252); `BitVec.ofNat` takes the product modulo 2^32. -/
theorem shiftLeft_eq_mul (x : Word) (n : Nat) : x <<< n = BitVec.ofNat 32 (x.toNat * 2 ^ n) := by
  apply BitVec.eq_of_toNat_eq
  rw [BitVec.toNat_shiftLeft, Nat.shiftLeft_eq, BitVec.toNat_ofNat]

/-- LSR and LSRI (R253, R254). -/
theorem ushiftRight_eq_div (x : Word) (n : Nat) : x >>> n = BitVec.ofNat 32 (x.toNat / 2 ^ n) := by
  rw [← Nat.shiftRight_eq_div_pow, ← BitVec.toNat_ushiftRight, BitVec.ofNat_toNat, BitVec.setWidth_eq]

/-- ASR and ASRI (R255, R256): on `Int`, `/` by a positive divisor rounds down, as the arithmetic shift does. -/
theorem sshiftRight_eq_div (x : Word) (n : Nat) : x.sshiftRight n = BitVec.ofInt 32 (x.toInt / 2 ^ n) := by
  rw [BitVec.sshiftRight, Int.shiftRight_eq_div_pow, Nat.cast_pow, Nat.cast_ofNat]

/-! ## The six instructions -/

/-- Settles O24: the immediate forms shift by their field, the register forms by `shiftCount`. -/
theorem shiftsMoveByACountBelow32 : Obligations.ShiftsMoveByACountBelow32 := by
  intro s a b imm5 i ha
  refine ⟨rfl, rfl, rfl, rfl, rfl, rfl, fun j hb => ?_, unaryOp_endsAs ha ha (shiftLeft_eq_mul _ _),
    unaryOp_endsAs ha ha (ushiftRight_eq_div _ _), unaryOp_endsAs ha ha (sshiftRight_eq_div _ _)⟩
  rw [← shiftCount_eq_mod]
  exact ⟨binaryOp_endsAs ha hb ha (shiftLeft_eq_mul _ _), binaryOp_endsAs ha hb ha (ushiftRight_eq_div _ _),
    binaryOp_endsAs ha hb ha (sshiftRight_eq_div _ _)⟩

end Sys2Proof.Machine
end

section
/-! The byte idioms (43_load_store R285, R286). A byte address splits into the word address that LD and ST8d use and
the lane that EXT8d and ST8d select. FILL8 puts its byte into every lane, so the lane stored is that byte; the lane
extracted from a loaded word is the byte of memory at the whole address. -/

namespace Sys2Proof.Machine

/-! ## Distinct registers -/

/-- One window gives two registers two places (R33). -/
theorem physReg_inj {c : Config} {w : BitVec 5} {r r' : RegIx} {i : Fin 512} (h : physReg c w r = some i)
    (h' : physReg c w r' = some i) : r = r' := by
  apply BitVec.eq_of_toNat_eq
  rcases physReg_cases h with ⟨hr, hi⟩ | ⟨hr, -, hi⟩ <;>
    rcases physReg_cases h' with ⟨hr', hi'⟩ | ⟨hr', -, hi'⟩ <;> omega

theorem State.phys_ne {s : State} {a b : RegIx} {i j : Fin 512} (ha : s.phys a = some i) (hb : s.phys b = some j)
    (hab : a ≠ b) : i ≠ j := by
  rintro rfl
  exact hab (physReg_inj ha hb)

/-! ## Word address and lane -/

/-- Without a prefix the word address is the base with its two low bits dropped (R270). -/
theorem eaIndirect_zero_toNat (x : Word) : (eaIndirect x 0#11).toNat = x.toNat / 4 * 4 := by
  simp [eaIndirect, align32_toNat]

/-- The word address and the lane add up to the byte address (R277). -/
theorem eaIndirect_zero_add_lane (x : Word) :
    (eaIndirect x 0#11).toNat + (x.extractLsb' 0 2).toNat = x.toNat := by
  rw [eaIndirect_zero_toNat, BitVec.extractLsb'_toNat, Nat.shiftRight_zero]
  omega

/-- The address ST8d stores to without a prefix is the byte address in its pointer (R277). -/
theorem eaByte_eaIndirect_zero (x : Word) : eaByte (eaIndirect x 0#11) (x.extractLsb' 0 2) = x := by
  apply BitVec.eq_of_toNat_eq
  have hlane := (x.extractLsb' 0 2).isLt
  have hx := x.isLt
  have hsum := eaIndirect_zero_add_lane x
  rw [eaByte, BitVec.zeroExtend, BitVec.toNat_add, BitVec.toNat_setWidth]
  omega

/-- The lanes of four bytes put together are those bytes (R10, R90). -/
theorem byteLane_append (b3 b2 b1 b0 : Byte) (n : BitVec 2) :
    byteLane (b3 ++ b2 ++ b1 ++ b0) n = [b0, b1, b2, b3][n.toNat]'n.isLt := by
  apply BitVec.eq_of_toNat_eq
  have hn : n = 0#2 ∨ n = 1#2 ∨ n = 2#2 ∨ n = 3#2 := by
    revert n
    decide
  rw [byteLane, BitVec.extractLsb'_toNat, Nat.shiftRight_eq_div_pow]
  simp only [append_toNat]
  rcases hn with rfl | rfl | rfl | rfl <;> simp <;> omega

/-- Every lane of a byte copied four times is that byte (R228). -/
theorem byteLane_copies (b : Byte) (n : BitVec 2) : byteLane (b ++ b ++ b ++ b) n = b := by
  rw [byteLane_append]
  exact List.eq_of_mem_replicate (n := 4) (List.getElem_mem _)

/-- Lane `n` of the word at `a` is the byte `n` above `a` (R90, R96). -/
theorem byteLane_readWord (m : Memory) (a : Nat) (n : BitVec 2) :
    byteLane (Memory.readWord m a) n = Memory.readByte m (a + n.toNat) := by
  have hbytes (k : Nat) (hk : k < 4) : [Memory.readByte m a, Memory.readByte m (a + 1), Memory.readByte m (a + 2),
      Memory.readByte m (a + 3)][k] = Memory.readByte m (a + k) := by
    interval_cases k <;> rfl
  rw [Memory.readWord, byteLane_append, hbytes _ n.isLt]

/-! ## The four instructions -/

section
variable {s : State} {a b : RegIx} {i j : Fin 512}

theorem exec_fill8 (ha : s.phys a = some i) :
    exec (.fill8 a) s =
      .next (s.setPhys 0 ((s.regs.get i).extractLsb' 0 8 ++ (s.regs.get i).extractLsb' 0 8 ++
        (s.regs.get i).extractLsb' 0 8 ++ (s.regs.get i).extractLsb' 0 8)).finish :=
  unaryOp_eq_next.mpr ⟨i, 0, ha, s.phys_zero, rfl⟩

/-- ST8d without a prefix. -/
theorem exec_st8d (ha : s.phys a = some i) (hk : s.k = 0#11) (hp : populated s.cfg (s.regs.get i).toNat = true) :
    exec (.st8d a) s =
      .next (s.store (s.regs.get i).toNat
        [byteLane (s.regs.get 0) ((s.regs.get i).extractLsb' 0 2)]).finish := by
  rw [exec, execSt8d, readReg_of_phys ha, andThen_next, regR0, readReg_of_phys s.phys_zero, andThen_next, hk,
    eaByte_eaIndirect_zero]
  exact storeOp_eq_next.mpr ⟨by simpa [populatedRange] using hp, rfl⟩

/-- LD, where the platform has the word. -/
theorem exec_ld (ha : s.phys a = some i) (hb : s.phys b = some j)
    (hp : populatedRange s.cfg (eaIndirect (s.regs.get j) s.k).toNat 4 = true) :
    exec (.ld a b) s =
      .next (s.setPhys i (Memory.readWord s.mem (eaIndirect (s.regs.get j) s.k).toNat)).finish := by
  rw [exec, execLd, readReg_of_phys hb, andThen_next]
  exact loadOp_eq_next.mpr ⟨i, ha, hp, rfl⟩

theorem exec_ext8d (ha : s.phys a = some i) (hb : s.phys b = some j) :
    exec (.ext8d a b) s =
      .next (s.setPhys i
        ((byteLane (s.regs.get i) ((s.regs.get j).extractLsb' 0 2)).zeroExtend 32)).finish :=
  binaryOp_eq_next.mpr ⟨i, j, i, ha, hb, ha, rfl⟩

end

/-! ## The idioms -/

/-- Settles O34: FILL8 clears K and leaves the pointer, which is not %r0, so ST8d stores one lane of the copies at the
byte address itself. -/
theorem fillThenStoreWritesTheByte : Obligations.FillThenStoreWritesTheByte := by
  intro s x a i j hx ha ha0 hp
  rw [execAll_cons (exec_fill8 hx)]
  generalize (s.regs.get i).extractLsb' 0 8 = b
  set u := (s.setPhys 0 (b ++ b ++ b ++ b)).finish
  have hpointer : u.regs.get j = s.regs.get j := s.setPhys_get_of_ne 0 j _ (State.phys_ne s.phys_zero ha ha0.symm)
  have hcopies : u.regs.get 0 = b ++ b ++ b ++ b := s.setPhys_get_self 0 _
  have hstore := exec_st8d (s := u) ha rfl (hpointer ▸ hp)
  rw [hpointer, hcopies, byteLane_copies] at hstore
  exact ⟨_, execAll_cons hstore, Memory.readByte_writeByte_same _ _ _,
    fun n hn => Memory.readByte_writeByte_other _ _ _ _ hn⟩

/-- Settles O35: LD leaves the pointer, which is another register, so EXT8d selects the lane of the byte address in the
word loaded from it. -/
theorem loadThenExtractReadsTheByte : Obligations.LoadThenExtractReadsTheByte := by
  intro s a b i j ha hb hab hk hp
  have hload := exec_ld ha hb (by rwa [hk, eaIndirect_zero_toNat])
  rw [hk] at hload
  rw [execAll_cons hload]
  set w := Memory.readWord s.mem (eaIndirect (s.regs.get j) 0#11).toNat with hw
  set u := (s.setPhys i w).finish
  have hloaded : u.regs.get i = w := s.setPhys_get_self i w
  have hpointer : u.regs.get j = s.regs.get j := s.setPhys_get_of_ne i j w (State.phys_ne ha hb hab)
  have hextract := exec_ext8d (s := u) ha hb
  rw [hloaded, hpointer, hw, byteLane_readWord, eaIndirect_zero_add_lane] at hextract
  refine ⟨_, execAll_cons hextract, ?_⟩
  rw [BitVec.ofNat_toNat]
  exact Vector.set_set ..

end Sys2Proof.Machine
end

section
/-! The SKPS condition table and the meaning of its rows after a comparison (44_control_flow R311). Each pair of
conditions is a fact about the flags of a difference and its negation. -/

namespace Sys2Proof.Machine

/-! ## The flags of a difference as relations of its operands -/

section
variable (x y : Word)

theorem differenceFlags_c : (differenceFlags x y).c = decide (x.toNat < y.toNat) := rfl

theorem differenceFlags_z : (differenceFlags x y).z = decide (x = y) :=
  decide_eq_decide.mpr sub_eq_zero

theorem differenceFlags_n : (differenceFlags x y).n = decide ((x - y).toInt < 0) := by
  rw [differenceFlags, BitVec.msb_eq_toInt]

/-- N and V together are the sign of the unlimited difference: V says where bit 31 is not that sign. -/
theorem differenceFlags_signed_lt :
    ((differenceFlags x y).n ^^ (differenceFlags x y).v) = decide (x.toInt < y.toInt) := by
  simp [differenceFlags, sub_neg]

/-- The wrapped difference is off by a multiple of 2^32 exactly where its sign is not that of the unlimited one. -/
theorem differenceFlags_v :
    (differenceFlags x y).v = decide ((x - y).toInt ≠ x.toInt - y.toInt) := by
  have hx := BitVec.toInt_lt (x := x)
  have hx' := BitVec.le_toInt x
  have hy := BitVec.toInt_lt (x := y)
  have hy' := BitVec.le_toInt y
  have hwrap := BitVec.toInt_sub (x := x) (y := y)
  simp only [Int.bmod_def] at hwrap
  have hsign : (((x - y).toInt < 0) ↔ (x.toInt - y.toInt < 0)) ↔ (x - y).toInt = x.toInt - y.toInt := by omega
  rw [differenceFlags, BitVec.msb_eq_toInt, Bool.eq_iff_iff, bne_iff_ne, ne_eq, decide_eq_decide, decide_eq_true_iff,
    hsign]

theorem differenceFlags_unsigned_le :
    ((differenceFlags x y).c || (differenceFlags x y).z) = decide (x.toNat ≤ y.toNat) := by
  rw [differenceFlags_c, differenceFlags_z, ← Bool.decide_or, decide_eq_decide, ← BitVec.toNat_inj,
    Nat.le_iff_lt_or_eq]

theorem differenceFlags_signed_le :
    ((differenceFlags x y).z || ((differenceFlags x y).n ^^ (differenceFlags x y).v)) =
      decide (x.toInt ≤ y.toInt) := by
  rw [differenceFlags_z, differenceFlags_signed_lt, ← Bool.decide_or, decide_eq_decide, ← BitVec.toInt_inj]
  omega

end

/-! ## The conditions -/

/-- One row of a pair of conditions from the other. -/
theorem not_eq_decide {b : Bool} {p q : Prop} [Decidable p] [Decidable q] (hb : b = decide p) (hq : ¬p ↔ q) :
    (!b) = decide q := by
  rw [hb, ← decide_not, decide_eq_decide]
  exact hq

theorem cmp_flags {s t : State} {a b : RegIx} {i j : Fin 512} (ha : s.phys a = some i) (hb : s.phys b = some j)
    (h : exec (.cmp a b) s = .next t) : t.status.flags = differenceFlags (s.regs.get i) (s.regs.get j) := by
  obtain rfl := Host.Outcome.next.inj ((exec_cmp ha hb).symm.trans h)
  rfl

/-- Settles O14, row by row from the flags of the difference. -/
theorem conditionsAfterCompareOrderTheOperands : Obligations.ConditionsAfterCompareOrderTheOperands := by
  intro s t a b i j ha hb h x y
  rw [cmp_flags ha hb h]
  have hborrow := differenceFlags_c x y
  have hequal := differenceFlags_z x y
  have hsign := differenceFlags_n x y
  have hless := differenceFlags_signed_lt x y
  have hatMost := differenceFlags_signed_le x y
  have hoverflow := differenceFlags_v x y
  have hbelow := differenceFlags_unsigned_le x y
  exact ⟨congrArg some hborrow, congrArg some (not_eq_decide hborrow Nat.not_lt),
    congrArg some hequal, congrArg some (not_eq_decide hequal Iff.rfl),
    congrArg some hsign, congrArg some (not_eq_decide hsign Int.not_lt),
    congrArg some (not_eq_decide hless Int.not_lt), congrArg some hless,
    congrArg some hatMost, congrArg some (not_eq_decide hatMost Int.not_le),
    congrArg some hoverflow, congrArg some (not_eq_decide hoverflow Decidable.not_not),
    congrArg some hbelow, congrArg some (not_eq_decide hbelow Nat.not_le)⟩

/-- SKPS with a code that has no row is no instruction (R311, D31). -/
theorem exec_skps_of_no_row {s : State} {n : BitVec 4} (hslot : s.bt = none)
    (hrow : skpsCondition n s.status.flags = none) :
    exec (.skps n) s = .fault (.unassigned .skpsCondition) := by
  rw [exec, execSkps, outsideDelaySlot_of_none hslot, hrow]

/-- Settles O41: the rows are those of `skpsCondition`, and codes 14 and 15 have none. -/
theorem skipConditionTable : Obligations.SkipConditionTable := by
  intro s
  exact ⟨rfl, fun hslot => ⟨exec_skps_of_no_row hslot rfl, exec_skps_of_no_row hslot rfl⟩⟩

end Sys2Proof.Machine
end

section
/-! The fault of a forbidden instruction in a delay slot (44_control_flow R322, D25). Only the guard
`outsideDelaySlot` raises it: no shared operation does, and so no instruction does past its guard. -/

namespace Sys2Proof.Machine

/-- The operation does not report a forbidden instruction in a delay slot. -/
def NoSlotFault {α : Type} (r : Result α) : Prop := r ≠ .fault .forbiddenInDelaySlot

/-! ## The shared operations -/

theorem NoSlotFault.next {α : Type} (x : α) : NoSlotFault (.next x) := nofun

/-- A fault of a sequence is one of its parts. -/
theorem NoSlotFault.andThen {α β : Type} {r : Result α} {f : α → Result β} (hr : NoSlotFault r)
    (hf : ∀ x, NoSlotFault (f x)) : NoSlotFault (andThen r f) := by
  cases r with
  | next x => exact hf x
  | fault e => exact fun h => hr (congrArg _ (Host.Outcome.fault.inj h))
  | refused e => nofun

section
variable (s : State)

theorem readReg_noSlotFault (r : RegIx) : NoSlotFault (readReg s r) := by
  unfold readReg
  split <;> nofun

theorem writeReg_noSlotFault (r : RegIx) (v : Word) : NoSlotFault (writeReg s r v) := by
  unfold writeReg
  split <;> nofun

theorem memReadWord_noSlotFault (a : Word) : NoSlotFault (memReadWord s a) := by
  unfold memReadWord
  split <;> nofun

theorem memWrite_noSlotFault (a : Word) (bs : List Byte) : NoSlotFault (memWrite s a bs) := by
  unfold memWrite
  split <;> nofun

theorem fetchHalf_noSlotFault (a : Addr) : NoSlotFault (fetchHalf s a) := by
  unfold fetchHalf
  split
  · split <;> nofun
  · nofun

theorem readControl_noSlotFault (k : BitVec 11) : NoSlotFault (readControl s k) := by
  unfold readControl
  repeat' split
  all_goals nofun

theorem requireNop_noSlotFault : NoSlotFault (requireNop s) := by
  refine (fetchHalf_noSlotFault s _).andThen fun w => ?_
  split <;> nofun

theorem writeControl_noSlotFault (k : BitVec 11) (v : Half) : NoSlotFault (writeControl s k v) := by
  unfold writeControl
  split
  · exact requireNop_noSlotFault _
  · repeat' split
    all_goals nofun

theorem enterException_noSlotFault (n : BitVec 6) (ret : Addr) (dec : Bool) :
    NoSlotFault (enterException s n ret dec) :=
  (writeReg_noSlotFault _ _ _).andThen fun _ => (memReadWord_noSlotFault _ _).andThen fun _ => .next _

theorem raiseWindowUnderflow_noSlotFault : NoSlotFault (raiseWindowUnderflow s) := by
  unfold raiseWindowUnderflow
  split
  · exact enterException_noSlotFault s _ _ _
  · exact .next s

theorem raiseWindowOverflow_noSlotFault : NoSlotFault (raiseWindowOverflow s) := by
  unfold raiseWindowOverflow
  split
  · exact enterException_noSlotFault s _ _ _
  · exact .next s

/-! ## The shapes of instruction -/

theorem logicOperand_noSlotFault (bi : BitVec 5) : NoSlotFault (logicOperand s bi) := by
  unfold logicOperand
  split
  · exact .next _
  · exact readReg_noSlotFault s bi

theorem writeAndFinish_noSlotFault (a : RegIx) (v : Word) : NoSlotFault (writeAndFinish s a v) :=
  (writeReg_noSlotFault s a v).andThen fun _ => .next _

/-- An operand read. -/
theorem NoSlotFault.read {α : Type} {f : Word → Result α} (a : RegIx) (hf : ∀ x, NoSlotFault (f x)) :
    NoSlotFault (Machine.andThen (readReg s a) f) :=
  (readReg_noSlotFault s a).andThen hf

theorem unaryOp_noSlotFault (d a : RegIx) (f : Word → Word) : NoSlotFault (unaryOp s d a f) :=
  .read s a fun _ => writeAndFinish_noSlotFault s d _

theorem binaryOp_noSlotFault (d a b : RegIx) (f : Word → Word → Word) : NoSlotFault (binaryOp s d a b f) :=
  .read s a fun _ => .read s b fun _ => writeAndFinish_noSlotFault s d _

theorem loadOp_noSlotFault (a : RegIx) (ea : Word) : NoSlotFault (loadOp s a ea) :=
  (memReadWord_noSlotFault s ea).andThen fun _ => writeAndFinish_noSlotFault s a _

theorem storeOp_noSlotFault (ea : Word) (bs : List Byte) : NoSlotFault (storeOp s ea bs) :=
  (memWrite_noSlotFault s ea bs).andThen fun _ => .next _

theorem skipOp_noSlotFault (cond : Bool) : NoSlotFault (skipOp s cond) := by
  cases cond with
  | false => exact .next _
  | true => exact (fetchHalf_noSlotFault s _).andThen fun _ => .next _

theorem execSave_noSlotFault (imm8 : BitVec 8) : NoSlotFault (execSave imm8 s) := by
  refine .read s _ fun fp => (writeReg_noSlotFault _ _ _).andThen fun t => ?_
  split
  · exact raiseWindowUnderflow_noSlotFault _
  · exact .next _

theorem execRestore_noSlotFault : NoSlotFault (execRestore s) := by
  unfold execRestore
  dsimp only
  split
  · exact raiseWindowOverflow_noSlotFault _
  · exact .next _

theorem execMstep_noSlotFault (a : RegIx) : NoSlotFault (execMstep a s) := by
  unfold execMstep
  exact binaryOp_noSlotFault s _ _ _ _

theorem execMul_noSlotFault (a : RegIx) : NoSlotFault (execMul a s) := by
  unfold execMul
  split
  · exact binaryOp_noSlotFault s _ _ _ _
  · nofun

/-! ## Every instruction -/

/-- An instruction that may stand in a delay slot never reports that it may not. -/
theorem exec_noSlotFault {i : Instr} (hi : barredFromDelaySlot i = false) : NoSlotFault (exec i s) := by
  cases i
  case br | bsr | jmp | call | skp0 | skp1 | skprz | skprnz | skps | trap | tret | pfx => exact nomatch hi
  case save imm8 => exact execSave_noSlotFault s imm8
  case restore => exact execRestore_noSlotFault s
  case mul a => exact execMul_noSlotFault s a
  case movi | bgen => exact writeAndFinish_noSlotFault s _ _
  case mov | movhi | lsli | lsri | asri | ext8s | ext16s | not | neg | abs | sext8 | sext16 | swap | fill8 | fill16 =>
    exact unaryOp_noSlotFault s _ _ _
  case lsl | lsr | asr | ext8d | ext16d => exact binaryOp_noSlotFault s _ _ _ _
  case mstep a => exact execMstep_noSlotFault s a
  case cmp => exact .read s _ fun _ => .read s _ fun _ => .next _
  case cmpi => exact .read s _ fun _ => .next _
  case add | sub => exact .read s _ fun _ => .read s _ fun _ => writeAndFinish_noSlotFault _ _ _
  case addi | subi | rlc | rrc => exact .read s _ fun _ => writeAndFinish_noSlotFault _ _ _
  case and | andn | or | xor =>
    exact .read s _ fun _ => (logicOperand_noSlotFault s _).andThen fun _ => writeAndFinish_noSlotFault _ _ _
  case ld | ldp | lds => exact .read s _ fun _ => loadOp_noSlotFault s _ _
  case st | stp | sts | st8d | st8s | st16d | st16s | sts8s | sts16s =>
    exact .read s _ fun _ => .read s _ fun _ => storeOp_noSlotFault s _ _
  case rdctl => exact (readControl_noSlotFault s _).andThen fun _ => writeAndFinish_noSlotFault _ _ _
  case wrctl => exact .read s _ fun _ => (writeControl_noSlotFault s _ _).andThen fun _ => .next _

/-- Each of the twelve instructions is the guard of R322 before a body that does not report the fault itself. -/
theorem exec_barred {i : Instr} (hi : barredFromDelaySlot i = true) :
    ∃ body, exec i s = outsideDelaySlot s body ∧ NoSlotFault body := by
  cases i
  case br => exact ⟨_, rfl, .next _⟩
  case bsr => exact ⟨_, rfl, (writeReg_noSlotFault s _ _).andThen fun _ => .next _⟩
  case jmp | tret => exact ⟨_, rfl, .read s _ fun _ => .next _⟩
  case call => exact ⟨_, rfl, .read s _ fun _ => (writeReg_noSlotFault s _ _).andThen fun _ => .next _⟩
  case skp0 | skp1 | skprz | skprnz => exact ⟨_, rfl, .read s _ fun _ => skipOp_noSlotFault s _⟩
  case skps =>
    refine ⟨_, rfl, ?_⟩
    split
    · exact skipOp_noSlotFault s _
    · nofun
  case trap => exact ⟨_, rfl, enterException_noSlotFault s _ _ _⟩
  case pfx =>
    refine ⟨_, rfl, ?_⟩
    split <;> nofun
  all_goals exact nomatch hi

end

theorem outsideDelaySlot_of_pending {s : State} {r : Result State} (h : s.bt ≠ none) :
    outsideDelaySlot s r = .fault .forbiddenInDelaySlot := by
  rw [outsideDelaySlot, if_pos (Option.isSome_iff_ne_none.mpr h)]

/-- Settles O42: the guard of `exec_barred` faults exactly where a target is pending, and nothing else gives the
fault. -/
theorem twelveInstructionsFaultInADelaySlot : Obligations.TwelveInstructionsFaultInADelaySlot := by
  intro i s
  cases hi : barredFromDelaySlot i with
  | false => exact ⟨nofun, fun _ => exec_noSlotFault s hi⟩
  | true =>
    obtain ⟨body, hexec, hbody⟩ := exec_barred s hi
    rw [hexec]
    refine ⟨fun _ hpending => outsideDelaySlot_of_pending hpending, fun h => ?_⟩
    have hslot : s.bt = none := h.resolve_left nofun
    rw [outsideDelaySlot_of_none hslot]
    exact hbody

end Sys2Proof.Machine
end

section
/-! SAVE with RESTORE and TRAP with TRET as pairs (45_window_trap_control R333, R337). The second instruction of each
pair undoes the first: CWP and STATUS come back, and the one register written between them, %sp or %o7, is an out of the
lower window, whose places the window above does not see. -/

namespace Sys2Proof.Machine

/-! ## What the window above does not see -/

/-- No register of a window lies at an out or a local of the window below it: those fill the places from
`16*(c - 1) + 8` up to `16*c + 8`, where the registers of window `c` begin (R33, R34). -/
theorem prevWindow_outs_locals_unseen {cfg : Config} {c : BitVec 5} {r r' : RegIx} {d j : Fin 512}
    (hd : physReg cfg (c - 1#5) r = some d) (hwindowed : 8 ≤ r.toNat) (hnotIn : r.toNat < 24)
    (hj : physReg cfg c r' = some j) : d ≠ j := by
  have hmax := cwpMax_le cfg
  rcases physReg_cases hd with ⟨hglobal, -⟩ | ⟨-, hinside, hplace⟩
  · omega
  · have hbelow : 1 ≤ c.toNat := by
      by_contra hzero
      obtain rfl : c = 0#5 := BitVec.eq_of_toNat_eq (by simpa using hzero)
      exact absurd (hinside.trans hmax) (by decide)
    have hprev := toNat_prevWindow hbelow
    rintro rfl
    rcases physReg_cases hj with ⟨_, _⟩ | ⟨_, _, _⟩ <;> omega

/-- So a value put there is not seen from the window above. -/
theorem setPhys_prevWindow_get {s : State} {r r' : RegIx} {d j : Fin 512} (v : Word)
    (hd : physReg s.cfg (s.status.cwp - 1#5) r = some d) (hwindowed : 8 ≤ r.toNat) (hnotIn : r.toNat < 24)
    (hj : s.phys r' = some j) : (s.setPhys d v).regs.get j = s.regs.get j :=
  s.setPhys_get_of_ne d j v (prevWindow_outs_locals_unseen hd hwindowed hnotIn hj)

/-! ## SAVE and RESTORE with exceptions off -/

/-- A window underflow request is dropped (R372, D15). -/
theorem raiseWindowUnderflow_of_disabled {s : State} (h : s.status.ie = false) : raiseWindowUnderflow s = .next s := by
  simp [raiseWindowUnderflow, h]

/-- A window overflow request is dropped (R373, D15, D16). -/
theorem raiseWindowOverflow_of_disabled {s : State} (h : s.status.ie = false) : raiseWindowOverflow s = .next s := by
  simp [raiseWindowOverflow, h]

/-- SAVE, at LO_LIMIT or not (R330). -/
theorem exec_save_of_disabled {s : State} {imm8 : BitVec 8} {i d : Fin 512} (hi : s.phys regSp = some i)
    (hd : physReg s.cfg (s.status.cwp - 1#5) regSp = some d) (hie : s.status.ie = false) :
    exec (.save imm8) s =
      .next ((s.setCwp (s.status.cwp - 1#5)).setPhys d (s.regs.get i - BitVec.ofNat 32 (4 * imm8.toNat))).finish := by
  have hwrite := fun v => writeReg_of_phys (s := s.setCwp (s.status.cwp - 1#5)) v hd
  have hdrop := fun v => raiseWindowUnderflow_of_disabled
    (s := ((s.setCwp (s.status.cwp - 1#5)).setPhys d v).finish) hie
  have hframe : 4#32 * imm8.zeroExtend 32 = BitVec.ofNat 32 (4 * imm8.toNat) := by congr 1
  rw [exec, execSave, readReg_of_phys hi, andThen_next, hwrite, andThen_next, hdrop, ite_self, hframe]

/-- RESTORE, at HI_LIMIT or not (R332). -/
theorem exec_restore_of_disabled {s : State} (hie : s.status.ie = false) :
    exec .restore s = .next (s.setCwp (s.status.cwp + 1#5)).finish := by
  have hdrop := raiseWindowOverflow_of_disabled (s := (s.setCwp (s.status.cwp + 1#5)).finish) hie
  rw [exec, execRestore, hdrop, ite_self]

/-- Settles O47: RESTORE takes back the CWP of SAVE, whose one write the caller's window does not see. -/
theorem saveThenRestoreKeepsTheCallersRegisters : Obligations.SaveThenRestoreKeepsTheCallersRegisters := by
  intro s imm8 i d hi hd hie
  refine ⟨_, (execAll_cons (exec_save_of_disabled hi hd hie)).trans (execAll_cons (exec_restore_of_disabled hie)), ?_⟩
  have hcwp : s.status.cwp - 1#5 + 1#5 = s.status.cwp := BitVec.sub_add_cancel ..
  have hstatus : { s.status with cwp := s.status.cwp - 1#5 + 1#5 } = s.status := by rw [hcwp]
  refine ⟨hstatus, rfl, rfl, fun r j hj => ⟨?_, setPhys_prevWindow_get (s := s) _ hd (by decide) (by decide) hj⟩⟩
  show physReg s.cfg (s.status.cwp - 1#5 + 1#5) r = some j
  rwa [hcwp]

/-! ## TRAP and TRET -/

/-- An even address is kept whole by the form in which a register holds it (R303, R313). -/
theorem codeAddr_returnValue {a : Addr} (heven : a.getLsbD 0 = false) : codeAddr (returnValue a) = a := by
  have hmod := (bit0_clear_iff a).mp heven
  have hlt := a.isLt
  apply BitVec.eq_of_toNat_eq
  rw [codeAddr_eq, returnValue_eq, BitVec.toNat_ofNat, BitVec.toNat_ofNat]
  omega

/-- `s` after TRAP `imm6`, with %o7 of the window below at place `d` (R334, R380). -/
def State.afterTrap (s : State) (imm6 : BitVec 6) (d : Fin 512) : State :=
  { (s.enterStatus imm6 true).setPhys d (returnValue (s.pc + 2#33)) with
    k := 0#11
    p := false
    bt := none
    pc := codeAddr (Memory.readWord s.mem (vectorAddr s.cfg imm6).toNat) }

/-- TRAP outside a delay slot, with a window below and a vector (R334, R380). -/
theorem exec_trap {s : State} {imm6 : BitVec 6} {d : Fin 512} (hslot : s.bt = none)
    (hd : physReg s.cfg (s.status.cwp - 1#5) regO7 = some d)
    (hvector : populatedRange s.cfg (vectorAddr s.cfg imm6).toNat 4 = true) :
    exec (.trap imm6) s = .next (s.afterTrap imm6 d) := by
  rw [exec, execTrap, outsideDelaySlot_of_none hslot]
  exact enterException_eq_next.mpr ⟨d, hd, hvector, rfl⟩

/-- TRET outside a delay slot (R336). -/
theorem exec_tret {s : State} {a : RegIx} {i : Fin 512} (hslot : s.bt = none) (hi : s.phys a = some i) :
    exec (.tret a) s = .next (s.returnTo (codeAddr (s.regs.get i))) := by
  rw [exec, execTret, outsideDelaySlot_of_none hslot, readReg_of_phys hi, andThen_next]

/-- Settles O50: TRET reads from %o7 the return location that TRAP put there, and takes STATUS from where TRAP saved
it. -/
theorem trapThenReturnResumes : Obligations.TrapThenReturnResumes := by
  intro s imm6 d hslot heven hd hvector
  have hreturn : exec (.tret 15#5) (s.afterTrap imm6 d) =
      .next ((s.afterTrap imm6 d).returnTo (codeAddr ((s.afterTrap imm6 d).regs.get d))) := exec_tret rfl hd
  have hlink : (s.afterTrap imm6 d).regs.get d = returnValue (s.pc + 2#33) := State.setPhys_get_self ..
  have hnext : (s.pc + 2#33).getLsbD 0 = false := add_even heven rfl
  rw [hlink, codeAddr_returnValue hnext] at hreturn
  refine ⟨_, (execAll_cons (exec_trap hslot hd hvector)).trans (execAll_cons hreturn), rfl, rfl, rfl, rfl, rfl, ?_,
    fun r j hj => setPhys_prevWindow_get (s := s) _ hd (by decide) (by decide) hj⟩
  rw [← returnValue_eq]
  rfl

end Sys2Proof.Machine
end

section
/-! The round trip from a word to its instruction and back (30_encoding R134, R140, R150). The decoder takes a word
apart into the slices that one format joins, and what it tests on the way are the bits that the format fixes. -/

namespace Sys2Proof

/-! ## A word put together from its slices -/

section
open BitVec (extractLsb'_append_extractLsb'_eq_extractLsb' extractLsb'_eq_self)
variable {w : Half}

theorem formatRR_of_slices {op6 : BitVec 6} (h : w.extractLsb' 10 6 = op6) :
    formatRR op6 (w.extractLsb' 5 5) (w.extractLsb' 0 5) = w := by
  subst h
  rw [formatRR]
  iterate 2 rw [extractLsb'_append_extractLsb'_eq_extractLsb' (by rfl)]
  exact extractLsb'_eq_self

theorem formatRPi5_of_slices {op4 : BitVec 4} (h : w.extractLsb' 12 4 = op4) :
    formatRPi5 op4 (w.extractLsb' 10 2) (w.extractLsb' 5 5) (w.extractLsb' 0 5) = w := by
  subst h
  rw [formatRPi5]
  iterate 3 rw [extractLsb'_append_extractLsb'_eq_extractLsb' (by rfl)]
  exact extractLsb'_eq_self

theorem formatRi8_of_slices {op3 : BitVec 3} (h : w.extractLsb' 13 3 = op3) :
    formatRi8 op3 (w.extractLsb' 5 8) (w.extractLsb' 0 5) = w := by
  subst h
  rw [formatRi8]
  iterate 2 rw [extractLsb'_append_extractLsb'_eq_extractLsb' (by rfl)]
  exact extractLsb'_eq_self

theorem formatI9_of_slices {op6 : BitVec 6} (h : w.extractLsb' 10 6 = op6) (hzero : w.extractLsb' 0 1 = 0#1) :
    formatI9 op6 (w.extractLsb' 1 9) = w := by
  subst h
  rw [formatI9, ← hzero]
  iterate 2 rw [extractLsb'_append_extractLsb'_eq_extractLsb' (by rfl)]
  exact extractLsb'_eq_self

theorem formatI10_of_slices {op6 : BitVec 6} (h : w.extractLsb' 10 6 = op6) :
    formatI10 op6 (w.extractLsb' 0 10) = w := by
  subst h
  rw [formatI10, extractLsb'_append_extractLsb'_eq_extractLsb' (by rfl)]
  exact extractLsb'_eq_self

theorem formatI11_of_slices {op5 : BitVec 5} (h : w.extractLsb' 11 5 = op5) :
    formatI11 op5 (w.extractLsb' 0 11) = w := by
  subst h
  rw [formatI11, extractLsb'_append_extractLsb'_eq_extractLsb' (by rfl)]
  exact extractLsb'_eq_self

theorem formatRi1u_of_slices {op3u : BitVec 3} (hgroup : w.extractLsb' 10 6 = 0b011101#6)
    (h : w.extractLsb' 7 3 = op3u) (hzero : w.extractLsb' 5 1 = 0#1) :
    formatRi1u op3u (w.extractLsb' 6 1) (w.extractLsb' 0 5) = w := by
  subst h
  rw [formatRi1u, ← hgroup, ← hzero]
  iterate 4 rw [extractLsb'_append_extractLsb'_eq_extractLsb' (by rfl)]
  exact extractLsb'_eq_self

theorem formatRi2u_of_slices {op3u : BitVec 3} (hgroup : w.extractLsb' 10 6 = 0b011101#6)
    (h : w.extractLsb' 7 3 = op3u) :
    formatRi2u op3u (w.extractLsb' 5 2) (w.extractLsb' 0 5) = w := by
  subst h
  rw [formatRi2u, ← hgroup]
  iterate 3 rw [extractLsb'_append_extractLsb'_eq_extractLsb' (by rfl)]
  exact extractLsb'_eq_self

theorem formatI8v_of_slices {op2v : BitVec 2} (hgroup : w.extractLsb' 10 6 = 0b011110#6)
    (h : w.extractLsb' 8 2 = op2v) : formatI8v op2v (w.extractLsb' 0 8) = w := by
  subst h
  rw [formatI8v, ← hgroup]
  iterate 2 rw [extractLsb'_append_extractLsb'_eq_extractLsb' (by rfl)]
  exact extractLsb'_eq_self

theorem formatI6v_of_slices {op2v : BitVec 2} (hgroup : w.extractLsb' 10 6 = 0b011110#6)
    (h : w.extractLsb' 8 2 = op2v) (hzero : w.extractLsb' 6 2 = 0#2) :
    formatI6v op2v (w.extractLsb' 0 6) = w := by
  subst h
  rw [formatI6v, ← hgroup, ← hzero]
  iterate 3 rw [extractLsb'_append_extractLsb'_eq_extractLsb' (by rfl)]
  exact extractLsb'_eq_self

theorem formatRw_of_slices {op5w : BitVec 5} (hgroup : w.extractLsb' 10 6 = 0b011111#6)
    (h : w.extractLsb' 5 5 = op5w) : formatRw op5w (w.extractLsb' 0 5) = w := by
  subst h
  exact formatRR_of_slices hgroup

theorem formatI4w_of_slices {op5w : BitVec 5} (hgroup : w.extractLsb' 10 6 = 0b011111#6)
    (h : w.extractLsb' 5 5 = op5w) (hzero : w.extractLsb' 4 1 = 0#1) :
    formatI4w op5w (w.extractLsb' 0 4) = w := by
  subst h
  rw [formatI4w, ← hgroup, ← hzero]
  iterate 3 rw [extractLsb'_append_extractLsb'_eq_extractLsb' (by rfl)]
  exact extractLsb'_eq_self

theorem formatW_of_slices {op5w : BitVec 5} (hgroup : w.extractLsb' 10 6 = 0b011111#6)
    (h : w.extractLsb' 5 5 = op5w) (hzero : w.extractLsb' 0 5 = 0#5) : formatW op5w = w := by
  rw [formatW, ← hzero]
  exact formatRw_of_slices hgroup h

end

/-! ## The rows of the decoder -/

/-- What a part of the decoder answers for the word `w` has that word, and exists. -/
def ReadsBack (hasMul : Bool) (w : Half) (r : Except Reject Instr) : Prop :=
  ∀ i, r = .ok i → encode i = w ∧ i.wellFormed hasMul = true

section
variable {hasMul : Bool} {w : Half}

theorem ReadsBack.error (why : Reject) : ReadsBack hasMul w (.error why) := nofun

theorem ReadsBack.ok {i : Instr} (hword : encode i = w) (hexists : i.wellFormed hasMul = true) :
    ReadsBack hasMul w (.ok i) := by
  rintro j ⟨⟩
  exact ⟨hword, hexists⟩

/-- One test of the decoder. -/
theorem ReadsBack.ite {c : Prop} [Decidable c] {r r' : Except Reject Instr} (hyes : c → ReadsBack hasMul w r)
    (hno : ReadsBack hasMul w r') : ReadsBack hasMul w (if c then r else r') := by
  split
  · next hc => exact hyes hc
  · exact hno

theorem readsBack_decodeU (hgroup : w.extractLsb' 10 6 = 0b011101#6) : ReadsBack hasMul w (decodeU w) := by
  exact .ite (fun h => .ok (formatRi2u_of_slices hgroup h) rfl) <|
    .ite (fun h => .ite (fun hzero => .ok (formatRi1u_of_slices hgroup h hzero) rfl) (.error _)) <|
    .ite (fun h => .ok (formatRi2u_of_slices hgroup h) rfl) <|
    .ite (fun h => .ite (fun hzero => .ok (formatRi1u_of_slices hgroup h hzero) rfl) (.error _)) (.error _)

theorem readsBack_decodeV (hgroup : w.extractLsb' 10 6 = 0b011110#6) : ReadsBack hasMul w (decodeV w) := by
  exact .ite (fun h => .ok (formatI8v_of_slices hgroup h) rfl) <|
    .ite (fun h => .ite (fun hzero => .ok (formatI6v_of_slices hgroup h hzero) rfl) (.error _)) (.error _)

theorem readsBack_decodeW (hgroup : w.extractLsb' 10 6 = 0b011111#6) : ReadsBack hasMul w (decodeW hasMul w) := by
  iterate 8 refine .ite (fun h => .ok (formatRw_of_slices hgroup h) rfl) ?_
  refine .ite (fun h => .ite (fun hzero => .ok (formatW_of_slices hgroup h hzero) rfl) (.error _)) ?_
  iterate 6 refine .ite (fun h => .ok (formatRw_of_slices hgroup h) rfl) ?_
  refine .ite (fun h => .ite (fun hmul => .ok (formatRw_of_slices hgroup h) hmul) (.error _)) ?_
  refine .ite (fun h => .ok (formatRw_of_slices hgroup h) rfl) ?_
  refine .ite (fun h => .ite (fun hzero => .ite (fun hcond =>
    .ok (formatI4w_of_slices hgroup h hzero) (decide_eq_true hcond)) (.error _)) (.error _)) ?_
  iterate 5 refine .ite (fun h => .ok (formatRw_of_slices hgroup h) rfl) ?_
  exact .error _

theorem readsBack_decodeOp6 : ReadsBack hasMul w (decodeOp6 hasMul w) := by
  iterate 24 refine .ite (fun h => .ok (formatRR_of_slices h) rfl) ?_
  refine .ite (fun h => .ok (formatI10_of_slices h) rfl) ?_
  refine .ite (fun h => .ite (fun hzero => .ok (formatI9_of_slices h hzero) rfl) (.error _)) ?_
  iterate 2 refine .ite (fun h => .ok (formatRR_of_slices h) rfl) ?_
  exact .ite readsBack_decodeU <| .ite readsBack_decodeV <| .ite readsBack_decodeW (.error _)

theorem readsBack_decode : ReadsBack hasMul w (decode hasMul w) := by
  iterate 2 refine .ite (fun h => .ok (formatRi8_of_slices h) rfl) ?_
  iterate 2 refine .ite (fun h => .ok (formatRPi5_of_slices h) rfl) ?_
  refine .ite (fun h => .ok (formatI11_of_slices h) rfl) <| .ite (fun _ => .error _) ?_
  iterate 2 refine .ite (fun h => .ok (formatI11_of_slices h) rfl) ?_
  exact readsBack_decodeOp6

end

/-- Settles O2: each row of the decoder reads back. -/
theorem encodeOfDecodeIsTheWord : Obligations.EncodeOfDecodeIsTheWord :=
  fun _ _ i h => readsBack_decode i h

end Sys2Proof
end

section
/-! Which words are unassigned (30_encoding R147): the tests of the decoder that end in a rejection, group by group. In
each group the opcode field has few values, and each settles all the tests on it. -/

namespace Sys2Proof

/-! ## Rejections -/

/-- A part of the decoder answers that the word is no instruction. -/
def Rejects (r : Except Reject Instr) : Prop := ∃ why, r = .error why

theorem rejects_ok (i : Instr) : ¬Rejects (.ok i) := nofun

theorem rejects_error (why : Reject) : Rejects (.error why) := ⟨why, rfl⟩

theorem rejects_ite {c : Prop} [Decidable c] {r r' : Except Reject Instr} :
    Rejects (if c then r else r') ↔ c ∧ Rejects r ∨ ¬c ∧ Rejects r' := by
  split <;> simp_all

/-- A slice of a slice. -/
theorem slice_of_slice {n : Nat} (x : BitVec n) {start len start' len' : Nat} (h : start' + len' ≤ len) :
    (x.extractLsb' start len).extractLsb' start' len' = x.extractLsb' (start + start') len' := by
  ext i hi
  simp [show start' + i < len by omega, Nat.add_assoc]

/-- The unassigned words of group u: four empty rows, and the must-be-zero bit of EXT16s and ST16s. -/
theorem rejects_decodeU (w : Half) : Rejects (decodeU w) ↔
    w.extractLsb' 8 1 = 1#1 ∨ (w.extractLsb' 7 2 = 0b01#2 ∧ w.extractLsb' 5 1 = 1#1) := by
  have h8 : w.extractLsb' 8 1 = (w.extractLsb' 7 3).extractLsb' 1 1 := by rw [slice_of_slice w (by decide)]
  have h7 : w.extractLsb' 7 2 = (w.extractLsb' 7 3).extractLsb' 0 2 := by rw [slice_of_slice w (by decide)]
  simp only [decodeU, rejects_ite, rejects_ok, rejects_error, and_true, and_false, false_or, h7, h8]
  generalize w.extractLsb' 7 3 = op3u
  generalize w.extractLsb' 5 1 = zero
  revert op3u zero
  decide

/-- The unassigned words of group v: two empty rows, and the must-be-zero bits of TRAP. -/
theorem rejects_decodeV (w : Half) : Rejects (decodeV w) ↔
    w.extractLsb' 9 1 = 1#1 ∨ (w.extractLsb' 8 1 = 1#1 ∧ w.extractLsb' 6 2 ≠ 0#2) := by
  have h9 : w.extractLsb' 9 1 = (w.extractLsb' 8 2).extractLsb' 1 1 := by rw [slice_of_slice w (by decide)]
  have h8 : w.extractLsb' 8 1 = (w.extractLsb' 8 2).extractLsb' 0 1 := by rw [slice_of_slice w (by decide)]
  simp only [decodeV, rejects_ite, rejects_ok, rejects_error, and_true, and_false, false_or, h9, h8]
  generalize w.extractLsb' 8 2 = op2v
  generalize w.extractLsb' 6 2 = zeros
  revert op2v zeros
  decide

/-- What the must-be-zero tests say, in the spelling of R147. -/
theorem bit_eq_zero_iff : ∀ b : BitVec 1, b = 0#1 ↔ ¬b = 1#1 := by decide

/-- The unassigned words of group w: nine empty rows, MUL where the CPU has none, and the bits of RESTORE and SKPS. -/
theorem rejects_decodeW (hasMul : Bool) (w : Half) : Rejects (decodeW hasMul w) ↔
    w.extractLsb' 5 5 ∈ [0b00111#5, 0b01001#5, 0b01010#5, 0b01011#5, 0b01100#5, 0b01111#5, 0b11011#5,
        0b11100#5, 0b11101#5] ∨
      (w.extractLsb' 5 5 = 0b10101#5 ∧ hasMul = false) ∨
      (w.extractLsb' 5 5 = 0b01101#5 ∧ w.extractLsb' 0 5 ≠ 0#5) ∨
      (w.extractLsb' 5 5 = 0b10111#5 ∧
        (w.extractLsb' 4 1 = 1#1 ∨ w.extractLsb' 0 4 = 14#4 ∨ w.extractLsb' 0 4 = 15#4)) := by
  have hcond : ∀ n : BitVec 4, n.toNat < 14 ↔ ¬(n = 14#4 ∨ n = 15#4) := by decide
  simp only [decodeW, rejects_ite, rejects_ok, rejects_error, and_true, and_false, false_or, hcond, bit_eq_zero_iff]
  generalize w.extractLsb' 5 5 = op5w
  obtain ⟨⟨n, hn⟩⟩ := op5w
  interval_cases n
  all_goals simp
  -- What is left is SKPS, which has three tests of its own.
  tauto

/-- With bit 15 clear the decoder goes by op6: one empty row, the must-be-zero bit of STS16s, and the three groups
(R135). -/
theorem rejects_decodeOp6 {hasMul : Bool} {w : Half} (hlow : (w.extractLsb' 10 6).toNat < 32) :
    Rejects (decodeOp6 hasMul w) ↔
      w.extractLsb' 10 6 = 0b011100#6 ∨
      (w.extractLsb' 10 6 = 0b011101#6 ∧ Rejects (decodeU w)) ∨
      (w.extractLsb' 10 6 = 0b011001#6 ∧ w.extractLsb' 0 1 = 1#1) ∨
      (w.extractLsb' 10 6 = 0b011110#6 ∧ Rejects (decodeV w)) ∨
      (w.extractLsb' 10 6 = 0b011111#6 ∧ Rejects (decodeW hasMul w)) := by
  simp only [decodeOp6, rejects_ite, rejects_ok, rejects_error, and_true, and_false, false_or, bit_eq_zero_iff]
  generalize w.extractLsb' 10 6 = op6 at hlow ⊢
  obtain ⟨⟨n, hn⟩⟩ := op6
  replace hlow : n < 32 := hlow
  interval_cases n <;> simp

/-- With bit 15 set the decoder goes by the top five bits, of which one value is in an empty row (R134). -/
theorem rejects_decode_high {hasMul : Bool} {w : Half} (hhigh : 16 ≤ (w.extractLsb' 11 5).toNat) :
    Rejects (decode hasMul w) ↔ w.extractLsb' 11 5 = 0b10010#5 := by
  have h13 : w.extractLsb' 13 3 = (w.extractLsb' 11 5).extractLsb' 2 3 := by rw [slice_of_slice w (by decide)]
  have h12 : w.extractLsb' 12 4 = (w.extractLsb' 11 5).extractLsb' 1 4 := by rw [slice_of_slice w (by decide)]
  simp only [decode, rejects_ite, rejects_ok, rejects_error, and_true, and_false, false_or, h13, h12]
  generalize w.extractLsb' 11 5 = op5 at hhigh ⊢
  obtain ⟨⟨n, hn⟩⟩ := op5
  replace hhigh : 16 ≤ n := hhigh
  interval_cases n <;> simp

/-- Settles O3: bit 15 says whether op6 or the top five bits decide. -/
theorem decoderRejectsExactlyTheUnassignedWords : Obligations.DecoderRejectsExactlyTheUnassignedWords := by
  intro hasMul w
  by_cases hbit : w.toNat < 2 ^ 15
  · have hlow : (w.extractLsb' 10 6).toNat < 32 := by
      rw [BitVec.extractLsb'_toNat, Nat.shiftRight_eq_div_pow]
      omega
    have htop : w.extractLsb' 11 5 ≠ 0b10010#5 := slice_ne_of_lt hbit (by decide)
    have hrejects := rejects_decodeOp6 (hasMul := hasMul) hlow
    rw [rejects_decodeU, rejects_decodeV, rejects_decodeW, ← decode_of_op6 hasMul hlow] at hrejects
    refine hrejects.trans ?_
    simp only [htop, or_false, and_or_left, or_assoc]
  · have hhigh : 16 ≤ (w.extractLsb' 11 5).toNat := by
      have := w.isLt
      rw [BitVec.extractLsb'_toNat, Nat.shiftRight_eq_div_pow]
      omega
    have hop6 : ∀ v : BitVec 6, v.toNat < 32 → w.extractLsb' 10 6 ≠ v := by
      rintro v hv rfl
      have := w.isLt
      rw [BitVec.extractLsb'_toNat, Nat.shiftRight_eq_div_pow] at hv
      omega
    refine (rejects_decode_high hhigh).trans ?_
    simp [hop6]

end Sys2Proof
end

section
/-! The examples of 95_test_vectors, each decoded. -/

namespace Sys2Proof

/-- Settles O4: twelve closed words, decoded. -/
theorem exampleWordsDecode : Obligations.ExampleWordsDecode :=
  ⟨rfl, rfl, rfl, rfl, rfl, rfl, rfl, rfl, rfl, rfl, rfl, rfl⟩

end Sys2Proof
end

section
/-! The rotates through the carry (42_shift_rotate R257, R258). C and the register are one 33-bit word, and RLC and RRC
are its rotations by one place. -/

namespace Sys2Proof.Machine

/-! ## The rotates as numbers -/

theorem rotateLeftCarry_eq (x : Word) (c : Bool) :
    rotateLeftCarry x c = (BitVec.ofNat 32 (2 * x.toNat + if c then 1 else 0), decide (2 ^ 31 ≤ x.toNat)) := by
  have hlow : (BitVec.ofBool c).toNat = if c then 1 else 0 := by cases c <;> rfl
  refine Prod.ext (BitVec.eq_of_toNat_eq ?_) ?_
  · rw [rotateLeftCarry, append_toNat, BitVec.extractLsb'_toNat, BitVec.toNat_ofNat, hlow, Nat.shiftRight_zero]
    split <;> omega
  · rw [rotateLeftCarry, ← BitVec.msb_eq_decide x, BitVec.msb_eq_getLsbD_last]

theorem rotateRightCarry_eq (x : Word) (c : Bool) :
    rotateRightCarry x c = (BitVec.ofNat 32 (x.toNat / 2 + if c then 2 ^ 31 else 0), decide (x.toNat % 2 = 1)) := by
  have hhigh : (BitVec.ofBool c).toNat = if c then 1 else 0 := by cases c <;> rfl
  have hx := x.isLt
  refine Prod.ext (BitVec.eq_of_toNat_eq ?_) ?_
  · rw [rotateRightCarry, append_toNat, BitVec.extractLsb'_toNat, BitVec.toNat_ofNat, hhigh,
      Nat.shiftRight_eq_div_pow]
    split <;> omega
  · rw [rotateRightCarry, ← BitVec.testBit_toNat, Nat.testBit_zero]

theorem rotateOp_endsAs {s : State} {a : RegIx} {f : Word → Bool → Word × Bool} {i : Fin 512} {v : Word} {c : Bool}
    (ha : s.phys a = some i) (hf : f (s.regs.get i) s.status.flags.c = (v, c)) :
    ∃ t, rotateOp s a f = .next t ∧ s.endsAs ((s.setFlags { s.status.flags with c := c }).setPhys i v) t := by
  refine endsAs_of_finish (rotateOp_eq_next.mpr ⟨i, ha, ?_⟩) rfl rfl
  rw [hf]

/-- Settles O25: both are a `rotateOp`, with the pairs of the two lemmas above. -/
theorem rotatesGoThroughTheCarry : Obligations.RotatesGoThroughTheCarry := by
  intro s a i ha
  exact ⟨rfl, rfl, rotateOp_endsAs ha (rotateLeftCarry_eq _ _), rotateOp_endsAs ha (rotateRightCarry_eq _ _)⟩

/-! ## The rotates as rotations of 33 bits -/

theorem cons_rotateLeftCarry (x : Word) (c : Bool) :
    BitVec.cons (rotateLeftCarry x c).2 (rotateLeftCarry x c).1 = (BitVec.cons c x).rotateLeft 1 := by
  ext i hi
  grind [rotateLeftCarry]

theorem cons_rotateRightCarry (x : Word) (c : Bool) :
    BitVec.cons (rotateRightCarry x c).2 (rotateRightCarry x c).1 = (BitVec.cons c x).rotateRight 1 := by
  ext i hi
  grind [rotateRightCarry]

theorem rotateLeft_add_one (v : BitVec 33) (n : Nat) : (v.rotateLeft n).rotateLeft 1 = v.rotateLeft (n + 1) := by
  apply BitVec.eq_of_getMsbD_eq
  intro i hi
  simp only [BitVec.getMsbD_rotateLeft]
  grind

theorem rotateLeft_full (v : BitVec 33) : v.rotateLeft 33 = v := by
  ext i hi
  simp

theorem rotateRight_rotateLeft (v : BitVec 33) : (v.rotateLeft 1).rotateRight 1 = v := by
  ext i hi
  grind

/-! ## The two instructions on that word -/

/-- C above the register at place `i`. -/
def State.carryWordAt (s : State) (i : Fin 512) : BitVec 33 := BitVec.cons s.status.flags.c (s.regs.get i)

/-- `s` with C and the register at place `i` taken from `v`, and the program flow gone on to `pc`. -/
def State.rotatedTo (s : State) (i : Fin 512) (v : BitVec 33) (pc : Addr) : State :=
  { (s.setFlags { s.status.flags with c := v.msb }).setPhys i (v.setWidth 32) with k := 0#11, p := false, pc := pc }

section
variable {s : State} {i : Fin 512}

theorem State.carryWordAt_rotatedTo (v : BitVec 33) (pc : Addr) : (s.rotatedTo i v pc).carryWordAt i = v := by
  have hreg : (s.rotatedTo i v pc).regs.get i = v.setWidth 32 := State.setPhys_get_self ..
  rw [State.carryWordAt, hreg]
  exact BitVec.cons_msb_setWidth v

theorem State.rotatedTo_rotatedTo (v v' : BitVec 33) (pc pc' : Addr) :
    (s.rotatedTo i v pc).rotatedTo i v' pc' = s.rotatedTo i v' pc' := by
  simp [State.rotatedTo, State.setPhys, State.setFlags]

theorem State.rotatedTo_carryWordAt (pc : Addr) :
    s.rotatedTo i (s.carryWordAt i) pc = { s with k := 0#11, p := false, pc := pc } := by
  have hreg : s.regs.set i (s.regs.get i) = s.regs := Vector.set_getElem_self ..
  simp [State.rotatedTo, State.carryWordAt, State.setPhys, State.setFlags, hreg]

variable {a : RegIx}

theorem rotateOp_rotatedTo (f : Word → Bool → Word × Bool) (ha : s.phys a = some i) (hbt : s.bt = none) :
    rotateOp s a f =
      .next (s.rotatedTo i
        (BitVec.cons (f (s.regs.get i) s.status.flags.c).2 (f (s.regs.get i) s.status.flags.c).1) (s.pc + 2#33)) := by
  refine rotateOp_eq_next.mpr ⟨i, ha, ?_⟩
  rw [State.rotatedTo, BitVec.msb_cons, BitVec.setWidth_cons]
  exact (State.finish_of_none (by exact hbt)).symm

theorem exec_rlc (ha : s.phys a = some i) (hbt : s.bt = none) :
    exec (.rlc a) s = .next (s.rotatedTo i ((s.carryWordAt i).rotateLeft 1) (s.pc + 2#33)) := by
  rw [State.carryWordAt, ← cons_rotateLeftCarry]
  exact rotateOp_rotatedTo _ ha hbt

theorem exec_rrc (ha : s.phys a = some i) (hbt : s.bt = none) :
    exec (.rrc a) s = .next (s.rotatedTo i ((s.carryWordAt i).rotateRight 1) (s.pc + 2#33)) := by
  rw [State.carryWordAt, ← cons_rotateRightCarry]
  exact rotateOp_rotatedTo _ ha hbt

/-- `n` more times RLC. -/
theorem execAll_rlcs {n k : Nat} (ha : s.phys a = some i) (hbt : s.bt = none) :
    execAll (List.replicate n (.rlc a))
        (s.rotatedTo i ((s.carryWordAt i).rotateLeft k) (s.pc + BitVec.ofNat 33 (2 * k))) =
      .next (s.rotatedTo i ((s.carryWordAt i).rotateLeft (k + n)) (s.pc + BitVec.ofNat 33 (2 * (k + n)))) := by
  induction n generalizing k with
  | zero => rfl
  | succ n ih =>
    set u := s.rotatedTo i ((s.carryWordAt i).rotateLeft k) (s.pc + BitVec.ofNat 33 (2 * k)) with hu
    have hpc : u.pc + 2#33 = s.pc + BitVec.ofNat 33 (2 * (k + 1)) := by
      rw [Nat.mul_add, BitVec.ofNat_add, ← BitVec.add_assoc]
      rfl
    have hstep := exec_rlc (s := u) ha hbt
    rw [hpc, hu, State.carryWordAt_rotatedTo, State.rotatedTo_rotatedTo, rotateLeft_add_one, ← hu] at hstep
    rw [List.replicate_succ, execAll_cons hstep, ih, Nat.add_right_comm, Nat.add_assoc]

end

/-- Settles O26: RRC turns the 33 bits back, and so do 33 times RLC. -/
theorem rotatesComeBackToTheStart : Obligations.RotatesComeBackToTheStart := by
  intro s a i ha hbt
  constructor
  · have hback := exec_rrc (s := s.rotatedTo i ((s.carryWordAt i).rotateLeft 1) (s.pc + 2#33)) ha hbt
    rw [State.carryWordAt_rotatedTo, State.rotatedTo_rotatedTo, rotateRight_rotateLeft, State.rotatedTo_carryWordAt]
      at hback
    rw [execAll_cons (exec_rlc ha hbt), execAll_cons hback]
    show Host.Outcome.next { s with k := 0#11, p := false, pc := s.pc + 2#33 + 2#33 } = _
    rw [BitVec.add_assoc]
    rfl
  · have hrest := execAll_rlcs (n := 32) (k := 1) ha hbt
    rw [rotateLeft_full, State.rotatedTo_carryWordAt] at hrest
    rw [List.replicate_succ, execAll_cons (exec_rlc ha hbt)]
    exact hrest

end Sys2Proof.Machine
end

section
/-! The effective addresses (43_load_store R270 to R282) as sums of integers, modulo 2^32 as `BitVec` has it (D8). -/

namespace Sys2Proof.Machine

/-- A base and a scaled signed offset. -/
theorem base_add_offset_eq {n : Nat} (x : Word) (offset : BitVec n) :
    x + 4#32 * offset.signExtend 32 = BitVec.ofInt 32 (x.toInt + 4 * offset.toInt) := by
  rw [BitVec.ofInt_add, BitVec.ofInt_mul, BitVec.ofInt_toInt]
  rfl

theorem eaIndirect_toNat (x : Word) (k : BitVec 11) :
    (eaIndirect x k).toNat = ((x.toInt + 4 * k.toInt) % 2 ^ 32).toNat / 4 * 4 := by
  rw [eaIndirect, align32_toNat, base_add_offset_eq, BitVec.toNat_ofInt]
  rfl

theorem eaPointer_toNat (x : Word) (k : BitVec 11) (imm5 : BitVec 5) :
    (eaPointer x k imm5).toNat = ((x.toInt + 4 * (k ++ imm5).toInt) % 2 ^ 32).toNat / 4 * 4 := by
  rw [eaPointer, align32_toNat, base_add_offset_eq, BitVec.toNat_ofInt]
  rfl

theorem eaStackWord_toNat (x : Word) (imm8 : BitVec 8) :
    (eaStackWord x imm8).toNat = (x.toNat + 4 * imm8.toNat) % 2 ^ 32 / 4 * 4 := by
  have := imm8.isLt
  rw [eaStackWord, align32_toNat]
  simp

/-- The lane of a byte is added without a carry out of the word. -/
theorem eaByte_toNat {wordAddr : Word} (haligned : wordAddr.toNat % 4 = 0) (n : BitVec 2) :
    (eaByte wordAddr n).toNat = wordAddr.toNat + n.toNat := by
  have := n.isLt
  have := wordAddr.isLt
  rw [eaByte, BitVec.zeroExtend, BitVec.toNat_add, BitVec.toNat_setWidth]
  omega

/-- The lane of a half-word is added without a carry out of the word. -/
theorem eaHalf_toNat {wordAddr : Word} (haligned : wordAddr.toNat % 4 = 0) (n : BitVec 1) :
    (eaHalf wordAddr n).toNat = wordAddr.toNat + 2 * n.toNat := by
  have := n.isLt
  have := wordAddr.isLt
  rw [eaHalf, BitVec.zeroExtend, BitVec.toNat_add, BitVec.toNat_mul, BitVec.toNat_setWidth, BitVec.toNat_ofNat]
  omega

theorem align32_aligned (x : Word) : (align32 x).toNat % 4 = 0 := by
  rw [align32_toNat]
  omega

theorem eaIndirect_aligned (x : Word) (k : BitVec 11) : (eaIndirect x k).toNat % 4 = 0 := align32_aligned _

theorem eaStackHalf_toNat (x : Word) (imm9 : BitVec 9) :
    (eaStackHalf x imm9).toNat = (x.toNat + 2 * imm9.toNat) % 2 ^ 32 / 4 * 4 + 2 * (imm9.toNat % 2) := by
  have := imm9.isLt
  rw [eaStackHalf, eaHalf_toNat (align32_aligned _), align32_toNat, BitVec.extractLsb'_toNat]
  simp

theorem eaStackByte_toNat (x : Word) (imm10 : BitVec 10) :
    (eaStackByte x imm10).toNat = (x.toNat + imm10.toNat) % 2 ^ 32 / 4 * 4 + imm10.toNat % 4 := by
  have := imm10.isLt
  rw [eaStackByte, eaByte_toNat (align32_aligned _), align32_toNat, BitVec.extractLsb'_toNat]
  simp

/-- The dynamic byte address keeps the lane of its base, for the scaled offset is a multiple of 4 (R277). -/
theorem eaByte_eaIndirect_toNat (x : Word) (k : BitVec 11) :
    (eaByte (eaIndirect x k) (x.extractLsb' 0 2)).toNat = ((x.toInt + 4 * k.toInt) % 2 ^ 32).toNat := by
  have hx := BitVec.toInt_eq_toNat_cond x
  rw [eaByte_toNat (eaIndirect_aligned x k), eaIndirect_toNat, BitVec.extractLsb'_toNat, Nat.shiftRight_zero]
  split at hx <;> omega

/-- Settles O27: the eight clauses are the lemmas above. -/
theorem effectiveAddressesAreAligned : Obligations.EffectiveAddressesAreAligned := by
  intro x k imm5 imm8 imm9 imm10
  exact ⟨eaIndirect_toNat x k, eaPointer_toNat x k imm5, eaStackWord_toNat x imm8, eaStackHalf_toNat x imm9,
    eaStackByte_toNat x imm10, eaByte_toNat (eaIndirect_aligned x k),
    eaHalf_toNat (eaIndirect_aligned x k), eaByte_eaIndirect_toNat x k⟩

end Sys2Proof.Machine
end

section
/-! The loads and stores (43_load_store R271 to R282): one lemma for what is a `loadOp` and one for what is a `storeOp`,
each with the fault where the platform has placed nothing (log 26). -/

namespace Sys2Proof.Machine

/-! ## A load and a store -/

section
variable {s : State} {a b : RegIx} {i j : Fin 512}

/-- The base register of LDP and STP by its number (R131). -/
theorem pointerReg_eq (p : BitVec 2) : pointerReg p = BitVec.ofNat 5 (16 + p.toNat) := by
  revert p
  decide

/-- A register read that something follows. -/
theorem andThen_readReg {α : Type} (hb : s.phys b = some j) (f : Word → Result α) :
    andThen (readReg s b) f = f (s.regs.get j) := by
  rw [readReg_of_phys hb, andThen_next]

/-- Two registers read. -/
theorem andThen_readReg_twice {α : Type} (ha : s.phys a = some i) (hb : s.phys b = some j)
    (f : Word → Word → Result α) :
    (andThen (readReg s a) fun x => andThen (readReg s b) (f x)) = f (s.regs.get i) (s.regs.get j) := by
  rw [andThen_readReg ha, andThen_readReg hb]

/-- The two ends of an instruction that is a load. -/
theorem loadOp_ends {r : Result State} {ea : Word} (ha : s.phys a = some i) (hr : r = loadOp s a ea) :
    (populatedRange s.cfg ea.toNat 4 = true →
      ∃ t, r = .next t ∧ s.endsAs (s.setPhys i (Memory.readWord s.mem ea.toNat)) t) ∧
    (populatedRange s.cfg ea.toNat 4 = false → r = .fault .unpopulatedAddress) := by
  subst hr
  refine ⟨fun hp => endsAs_of_finish (loadOp_eq_next.mpr ⟨i, ha, hp, rfl⟩) rfl rfl, fun hp => ?_⟩
  simp [loadOp, memReadWord, hp]

/-- The two ends of an instruction that is a store of `n` bytes. -/
theorem storeOp_ends {r : Result State} {ea : Word} {bs : List Byte} {n : Nat} (hr : r = storeOp s ea bs)
    (hn : bs.length = n) :
    (populatedRange s.cfg ea.toNat n = true → ∃ t, r = .next t ∧ s.storedAs ea.toNat bs t) ∧
    (populatedRange s.cfg ea.toNat n = false → r = .fault .unpopulatedAddress) := by
  subst hr hn
  refine ⟨fun hp => ⟨_, storeOp_eq_next.mpr ⟨hp, rfl⟩, store_storedAs s _ bs⟩, fun hp => ?_⟩
  simp [storeOp, memWrite, hp]

end

/-! ## Words -/

/-- Settles O28: three loads through a base register. -/
theorem loadsReadTheAlignedWord : Obligations.LoadsReadTheAlignedWord := by
  intro s a b p imm5 imm8 i ha
  refine ⟨fun j hb => loadOp_ends ha (andThen_readReg hb _), fun j hb => ?_,
    fun j hb => loadOp_ends ha (andThen_readReg hb _)⟩
  rw [← pointerReg_eq] at hb
  exact loadOp_ends ha (andThen_readReg hb _)

/-- Settles O29: the address is made from the base register, the bytes from x[A]. -/
theorem wordStoresWriteFourBytes : Obligations.WordStoresWriteFourBytes := by
  intro s a b p imm5 imm8 i ha v bs
  refine ⟨fun j hb => storeOp_ends (andThen_readReg_twice hb ha _) rfl, fun j hb => ?_,
    fun j hb => storeOp_ends (andThen_readReg_twice hb ha _) rfl⟩
  rw [← pointerReg_eq] at hb
  exact storeOp_ends (andThen_readReg_twice hb ha _) rfl

/-! ## Lanes -/

/-- The lane of a byte store, whose number is a slice of an address (R277, R281). -/
theorem byteLane_low_bits {n : Nat} (v : Word) (x : BitVec n) :
    byteLane v (x.extractLsb' 0 2) = v.extractLsb' (8 * (x.toNat % 4)) 8 := by
  rw [byteLane, BitVec.extractLsb'_toNat]
  rfl

/-- Settles O30: the byte is that lane of %r0. -/
theorem byteStoresWriteTheirLane : Obligations.ByteStoresWriteTheirLane := by
  intro s z hz
  refine ⟨fun a i ha => ?_, fun a i n ha => storeOp_ends (andThen_readReg_twice ha hz _) rfl, fun imm10 i hsp => ?_⟩
  · simp only [← byteLane_low_bits]
    exact storeOp_ends (andThen_readReg_twice ha hz _) rfl
  · simp only [← byteLane_low_bits]
    exact storeOp_ends (andThen_readReg_twice hsp hz _) rfl

/-- Settles O31: the two bytes are those of the half-word lane of %r0. -/
theorem halfWordStoresWriteTheirLane : Obligations.HalfWordStoresWriteTheirLane := by
  intro s z hz v
  have hdynamic : ∀ x : Word, (x.extractLsb' 1 1).toNat = x.toNat / 2 % 2 := fun x => by
    rw [BitVec.extractLsb'_toNat, Nat.shiftRight_eq_div_pow]
  have hstack : ∀ imm9 : BitVec 9, (imm9.extractLsb' 0 1).toNat = imm9.toNat % 2 := fun imm9 => by
    rw [BitVec.extractLsb'_toNat, Nat.shiftRight_zero]
  refine ⟨fun a i ha => ?_, fun a i n ha => ?_, fun imm9 i hsp => ?_⟩
  · simp only [← hdynamic, ← bytesOfHalf_halfLane]
    exact storeOp_ends (andThen_readReg_twice ha hz _) rfl
  · simp only [← bytesOfHalf_halfLane]
    exact storeOp_ends (andThen_readReg_twice ha hz _) rfl
  · simp only [← hstack, ← bytesOfHalf_halfLane]
    exact storeOp_ends (andThen_readReg_twice hsp hz _) rfl

/-! ## What memory keeps -/

/-- Every shape of instruction but that of the stores leaves memory alone, the exception entries included (R98,
R380). -/
theorem left_memory {i : Instr} {s t : State} (hstore : isStore i = false) (h : Left s i t) :
    t.mem = s.mem ∧ t.written = s.written := by
  cases h with
  | stored store => exact nomatch store.symm.trans hstore
  | savedUnderflow _ _ _ _ _ enter | restoredOverflow _ enter | trapped _ _ _ enter =>
    obtain ⟨d, -, -, rfl⟩ := enterException_eq_next.mp enter
    exact ⟨rfl, rfl⟩
  | _ => exact ⟨rfl, rfl⟩

/-- Settles O32, from `left_memory`. -/
theorem onlyStoresChangeMemory : Obligations.OnlyStoresChangeMemory := by
  intro i s t hstore h
  obtain ⟨hmem, hwritten⟩ := left_memory hstore (exec_left h)
  exact ⟨fun a => by rw [hmem], hmem, hwritten⟩

/-- The four bytes of a word, read back, are the word (R90). -/
theorem readWord_writeBytes (m : Memory) (a : Nat) (v : Word) :
    Memory.readWord (Memory.writeBytes m a (bytesOfWord v)) a = v := by
  have hlength : (bytesOfWord v).length = 4 := rfl
  have hbyte (n : Nat) (hn : n < (bytesOfWord v).length) := Memory.readByte_writeBytes_inside m a n (bytesOfWord v) hn
  have hbyte0 : Memory.readByte (Memory.writeBytes m a (bytesOfWord v)) a = v.extractLsb' 0 8 := hbyte 0 (by omega)
  have hbyte1 := hbyte 1 (by omega)
  have hbyte2 := hbyte 2 (by omega)
  have hbyte3 := hbyte 3 (by omega)
  rw [Memory.readWord, hbyte0, hbyte1, hbyte2, hbyte3]
  show v.extractLsb' 24 8 ++ v.extractLsb' 16 8 ++ v.extractLsb' 8 8 ++ v.extractLsb' 0 8 = v
  iterate 3 rw [BitVec.extractLsb'_append_extractLsb'_eq_extractLsb' (by rfl)]
  exact BitVec.extractLsb'_eq_self

/-- ST, where the platform has the word. -/
theorem exec_st {s : State} {a b : RegIx} {i j : Fin 512} (ha : s.phys a = some i) (hb : s.phys b = some j)
    (hp : populatedRange s.cfg (eaIndirect (s.regs.get j) s.k).toNat 4 = true) :
    exec (.st a b) s =
      .next (s.store (eaIndirect (s.regs.get j) s.k).toNat (bytesOfWord (s.regs.get i))).finish := by
  rw [exec, execSt, readReg_of_phys hb, andThen_next, readReg_of_phys ha, andThen_next]
  exact storeOp_eq_next.mpr ⟨hp, rfl⟩

/-- Settles O33: the store clears K and changes no register, so the load reads the four bytes it left. -/
theorem storeThenLoadReturnsTheWord : Obligations.StoreThenLoadReturnsTheWord := by
  intro s a b c i j l ha hb hc hk hp
  have hstore := exec_st ha hb (by rwa [hk])
  rw [hk] at hstore
  set u := (s.store (eaIndirect (s.regs.get j) 0#11).toNat (bytesOfWord (s.regs.get i))).finish
  have hload := exec_ld (s := u) hc hb hp
  have hword : Memory.readWord u.mem (eaIndirect (s.regs.get j) 0#11).toNat = s.regs.get i := readWord_writeBytes ..
  refine ⟨_, (execAll_cons hstore).trans (execAll_cons hload), ?_, rfl⟩
  exact congrArg (s.regs.set l ·) hword

end Sys2Proof.Machine
end

section
/-! The step where no interrupt is accepted (60_exceptions R366, R375): what the half-word at `pc` says. -/

namespace Sys2Proof.Machine

section
variable {s : State}

/-- The acceptance condition in words (R366). -/
theorem acceptsInterrupt_iff : s.acceptsInterrupt = true ↔
    s.p = false ∧ s.bt = none ∧ (s.irqs.headD noRequest).irq = true ∧ s.status.ie = true ∧
      (s.irqs.headD noRequest).number.toNat < s.status.ipri.toNat := by
  simp [State.acceptsInterrupt, State.sample, and_assoc]

theorem step_of_not_accepts (h : s.acceptsInterrupt = false) :
    step s = andThen (fetchInstr s.afterSample) fun i => exec i s.afterSample := by
  simp [step, h]

/-- The fetch of a half-word, by its three ends (R93, R101, R109). -/
theorem fetchHalf_of_unpopulated {a : Addr} (hp : populatedRange s.cfg a.toNat 2 = false) :
    fetchHalf s a = .fault .unpopulatedAddress := by
  simp [fetchHalf, hp]

theorem fetchHalf_of_stored {a : Addr} (hp : populatedRange s.cfg a.toNat 2 = true) (hs : s.storedOver a = true) :
    fetchHalf s a = .refused .storedInstruction := by
  simp [fetchHalf, hp, hs]

theorem fetchHalf_of_loaded {a : Addr} (hp : populatedRange s.cfg a.toNat 2 = true) (hs : s.storedOver a = false) :
    fetchHalf s a = .next (Memory.readByte s.mem (a.toNat + 1) ++ Memory.readByte s.mem a.toNat) :=
  fetchHalf_eq_next.mpr ⟨hp, hs, rfl⟩

end

/-- Settles O6: the word at `pc` is fetched, and decodes to the instruction. -/
theorem stepRunsTheDecodedInstruction : Obligations.StepRunsTheDecodedInstruction := by
  intro s i hrefuse hp hs hdecode
  have hfetch : fetchInstr s.afterSample = .next i :=
    fetchInstr_eq_next.mpr ⟨_, fetchHalf_of_loaded (s := s.afterSample) hp hs, hdecode⟩
  rw [step_of_not_accepts (by rwa [← Bool.not_eq_true, acceptsInterrupt_iff]), hfetch]
  rfl

/-- Settles O7: the three ends of the fetch that are no instruction. -/
theorem stepStopsWhereThereIsNothingToRun : Obligations.StepStopsWhereThereIsNothingToRun := by
  intro s hrefuse
  rw [step_of_not_accepts hrefuse, fetchInstr]
  refine ⟨fun hp => ?_, fun hp hs => ?_, fun hp hs why hdecode => ?_⟩
  · rw [fetchHalf_of_unpopulated (s := s.afterSample) (a := s.afterSample.pc) hp]
    rfl
  · rw [fetchHalf_of_stored (s := s.afterSample) (a := s.afterSample.pc) hp hs]
    rfl
  · rw [fetchHalf_of_loaded (s := s.afterSample) (a := s.afterSample.pc) hp hs]
    simp [hdecode]

end Sys2Proof.Machine
end

section
/-! MUL on a CPU that has it and on one that has not (40_arithmetic R190, D30). -/

namespace Sys2Proof.Machine

/-- The product of the low halves. -/
theorem low_halves_mul_eq (x y : Word) :
    (x &&& 0x0000FFFF#32) * (y &&& 0x0000FFFF#32) = BitVec.ofNat 32 (x.toNat % 2 ^ 16 * (y.toNat % 2 ^ 16)) := by
  have hmask : ∀ v : Word, v &&& 0x0000FFFF#32 = BitVec.ofNat 32 (v.toNat % 2 ^ 16) := fun v => by
    apply BitVec.eq_of_toNat_eq
    rw [BitVec.toNat_and, BitVec.toNat_ofNat, BitVec.toNat_ofNat]
    have hand := Nat.and_two_pow_sub_one_eq_mod v.toNat 16
    simp at hand ⊢
    omega
  rw [hmask, hmask, ← BitVec.ofNat_mul]

/-- Settles O17: with MUL a `binaryOp` on %r0, without it a fault. -/
theorem multiplyOfLowHalves : Obligations.MultiplyOfLowHalves := by
  intro s a i z ha hz
  refine ⟨fun hmul => ?_, fun hmul => ?_⟩
  · rw [exec, execMul, if_pos hmul]
    exact binaryOp_endsAs hz ha hz (low_halves_mul_eq _ _)
  · rw [exec, execMul, if_neg (by simp [hmul])]

end Sys2Proof.Machine
end

section
/-! PFX, the branches and jumps, and the skips outside a delay slot (44_control_flow R300 to R313). -/

namespace Sys2Proof.Machine

/-- Settles O36: past the guard of the delay slot, only P decides. -/
theorem prefixSetsKAndP : Obligations.PrefixSetsKAndP := by
  intro s imm11 hslot
  rw [exec, execPfx, outsideDelaySlot_of_none hslot]
  exact ⟨fun hp => if_neg (by simp [hp]), fun hp => if_pos hp⟩

/-! ## Branches and jumps -/

/-- The target of BR and BSR as a sum of integers modulo 2^33 (R301, D7). -/
theorem branchTarget_eq (pc : Addr) (imm11 : BitVec 11) :
    branchTarget pc imm11 = BitVec.ofInt 33 (pc.toNat + 2 + 2 * imm11.toInt) := by
  rw [BitVec.ofInt_add, BitVec.ofInt_add, BitVec.ofInt_mul, BitVec.ofInt_natCast, BitVec.ofNat_toNat,
    BitVec.setWidth_eq]
  rfl

/-- Settles O39: the link is written in the state before the branch, after CALL has read its register. -/
theorem branchesLeaveTheTargetPending : Obligations.BranchesLeaveTheTargetPending := by
  intro s a imm11 hslot target
  refine ⟨?_, fun d hd => ?_, fun i hi => ⟨?_, fun d hd => ?_⟩⟩
  · rw [exec, execBr, outsideDelaySlot_of_none hslot, branchTarget_eq]
    rfl
  · rw [exec, execBsr, outsideDelaySlot_of_none hslot, regO7, writeReg_of_phys _ hd, branchTarget_eq, returnValue_eq]
    rfl
  · rw [exec, execJmp, outsideDelaySlot_of_none hslot, readReg_of_phys hi, ← codeAddr_eq]
    rfl
  · rw [exec, execCall, outsideDelaySlot_of_none hslot, readReg_of_phys hi, andThen_next, regO7,
      writeReg_of_phys _ hd, returnValue_eq, ← codeAddr_eq]
    rfl

/-! ## Skips -/

/-- A skip that is taken, by the end of its look-ahead (R310). -/
theorem skipOp_true (s : State) : skipOp s true =
    andThen (fetchHalf s (s.pc + 2#33)) fun w =>
      .next { s with
        k := 0#11, p := false, pc := if w.extractLsb' 11 5 = 0b10011#5 then s.pc + 6#33 else s.pc + 4#33 } := by
  simp only [skipOp, if_true, isPfxWord, beq_iff_eq]
  rfl

/-- Settles O40: the five skips are one `skipOp`, whose look-ahead has the three ends of a fetch. -/
theorem skipsPassOverOneOrAPrefixedPair : Obligations.SkipsPassOverOneOrAPrefixedPair := by
  intro s i cond hslot hskip next word
  have hexec : exec i s = skipOp s cond := by
    rcases hskip with ⟨a, n, j, rfl, ha, rfl⟩ | ⟨a, n, j, rfl, ha, rfl⟩ | ⟨a, j, rfl, ha, rfl⟩ |
      ⟨a, j, rfl, ha, rfl⟩ | ⟨n, rfl, hn⟩
    · rw [exec, execSkp0, outsideDelaySlot_of_none hslot, andThen_readReg ha]
    · rw [exec, execSkp1, outsideDelaySlot_of_none hslot, andThen_readReg ha]
    · rw [exec, execSkprz, outsideDelaySlot_of_none hslot, andThen_readReg ha, beq_eq_decide]
    · rw [exec, execSkprnz, outsideDelaySlot_of_none hslot, andThen_readReg ha, bne, beq_eq_decide, decide_not]
    · rw [exec, execSkps, outsideDelaySlot_of_none hslot, hn]
  rw [hexec]
  refine ⟨?_, ?_, ?_, ?_⟩
  · rintro rfl
    rfl
  · rintro rfl hp hs
    rw [skipOp_true, fetchHalf_of_loaded hp hs, andThen_next]
  · rintro rfl hp
    rw [skipOp_true, fetchHalf_of_unpopulated hp, andThen_fault]
  · rintro rfl hp hs
    rw [skipOp_true, fetchHalf_of_stored hp hs, andThen_refused]

end Sys2Proof.Machine
end

section
/-! SAVE and RESTORE with and without a window exception (45_window_trap_control R330, R332; 60_exceptions R372, R373),
TRAP, TRET and the external interrupt (R334, R336, R366). All four entries are one `enterException`, which has three
ends: no window, no vector, the handler. -/

namespace Sys2Proof.Machine

/-! ## The entry sequence -/

section
variable {s : State} {n : BitVec 6} {ret : Addr} {dec : Bool}

/-- The state at the first instruction of the handler, with %o7 of its window at place `d` (R380). -/
def State.entered (s : State) (n : BitVec 6) (ret : Addr) (dec : Bool) (d : Fin 512) : State :=
  { (s.enterStatus n dec).setPhys d (returnValue ret) with
    k := 0#11
    p := false
    bt := none
    pc := codeAddr (Memory.readWord s.mem (vectorAddr s.cfg n).toNat) }

theorem enterException_of_vector {d : Fin 512} (hd : (s.enterStatus n dec).phys regO7 = some d)
    (hvector : populatedRange s.cfg (vectorAddr s.cfg n).toNat 4 = true) :
    enterException s n ret dec = .next (s.entered n ret dec d) :=
  enterException_eq_next.mpr ⟨d, hd, hvector, rfl⟩

theorem enterException_of_no_vector {d : Fin 512} (hd : (s.enterStatus n dec).phys regO7 = some d)
    (hvector : populatedRange s.cfg (vectorAddr s.cfg n).toNat 4 = false) :
    enterException s n ret dec = .fault .unpopulatedAddress := by
  rw [enterException, writeReg_of_phys _ hd, andThen_next, memReadWord]
  simp [hvector]

theorem enterException_of_no_window (hd : (s.enterStatus n dec).phys regO7 = none) :
    enterException s n ret dec = .fault .windowOutsideFile := by
  rw [enterException, writeReg_of_none _ hd, andThen_fault]

/-- The window below window 0 is number 31, which no register file has (D19, log 15). -/
theorem physReg_prevWindow_outside {c : Config} {w : BitVec 5} {r : RegIx} (hr : 8 ≤ r.toNat)
    (h : w = 0#5 ∨ c.cwpMax < (w - 1#5).toNat) : physReg c (w - 1#5) r = none := by
  refine physReg_outside hr ?_
  rcases h with rfl | h
  · exact Nat.lt_of_le_of_lt (cwpMax_le c) (by decide)
  · exact h

/-! ## SAVE -/

theorem raiseWindowUnderflow_of_masked (h : s.status.ie = false ∨ s.status.ipri.toNat ≤ 1) :
    raiseWindowUnderflow s = .next s := by
  rw [raiseWindowUnderflow, if_neg]
  rcases h with h | h <;> simp [h]

theorem raiseWindowUnderflow_of_taken (hie : s.status.ie = true) (hipri : 1 < s.status.ipri.toNat) :
    raiseWindowUnderflow s = enterException s 1#6 s.pc false := by
  simp [raiseWindowUnderflow, hie, hipri]

/-- `s` after SAVE, before the underflow is examined: the new %sp is at place `d`, the old one at place `i` (R330). -/
def State.saved (s : State) (imm8 : BitVec 8) (i d : Fin 512) : State :=
  ((s.setCwp (s.status.cwp - 1#5)).setPhys d (s.regs.get i - BitVec.ofNat 32 (4 * imm8.toNat))).finish

theorem exec_save {imm8 : BitVec 8} {i d : Fin 512} (hi : s.phys regSp = some i)
    (hd : physReg s.cfg (s.status.cwp - 1#5) regSp = some d) :
    exec (.save imm8) s =
      if s.status.cwp = s.wvalid.loLimit then raiseWindowUnderflow (s.saved imm8 i d)
      else .next (s.saved imm8 i d) := by
  have hframe : 4#32 * imm8.zeroExtend 32 = BitVec.ofNat 32 (4 * imm8.toNat) := by congr 1
  rw [exec, execSave, readReg_of_phys hi, andThen_next, writeReg_of_phys (s := s.setCwp _) _ hd, andThen_next, hframe]
  rfl

end

/-- Settles O43: the request is not made or dropped; at window 0 there is no place for the new %sp. -/
theorem saveOpensAWindow : Obligations.SaveOpensAWindow := by
  intro s imm8 i hi
  refine ⟨fun d hd hquiet => ?_, fun hcwp => ?_⟩
  · rw [exec_save hi hd]
    split
    · next hlimit =>
      exact raiseWindowUnderflow_of_masked (s := s.saved imm8 i d) (hquiet.resolve_left (not_not_intro hlimit))
    · rfl
  · have hnone := physReg_prevWindow_outside (c := s.cfg) (r := regSp) (by decide) (.inl hcwp)
    have hsp : s.phys regSp = some i := hi
    rw [exec, execSave, readReg_of_phys hsp, andThen_next, writeReg_of_none (s := s.setCwp _) _ hnone, andThen_fault]

/-- Settles O44: the handler runs in the window that the SAVE has opened. -/
theorem saveAtTheLimitEntersTheUnderflowHandler : Obligations.SaveAtTheLimitEntersTheUnderflowHandler := by
  intro s imm8 i d e hi hd he hlimit hie hipri vector
  have hexec : exec (.save imm8) s =
      enterException (s.saved imm8 i d) 1#6 s.nextPc false := by
    rw [exec_save hi hd, if_pos hlimit]
    exact raiseWindowUnderflow_of_taken (s := s.saved imm8 i d) hie hipri
  have hvector : vector = (vectorAddr s.cfg 1#6).toNat := by rw [vectorAddr_eq]; rfl
  have hplace : ((s.saved imm8 i d).enterStatus 1#6 false).phys regO7 = some e := he
  rw [hexec, hvector]
  refine ⟨fun hp => ?_, enterException_of_no_vector hplace⟩
  rw [enterException_of_vector hplace hp, State.entered, codeAddr_eq, returnValue_eq]
  rfl

/-! ## RESTORE -/

section
variable {s : State}

theorem raiseWindowOverflow_of_masked (h : s.status.ie = false ∨ s.status.ipri.toNat ≤ 2) :
    raiseWindowOverflow s = .next s := by
  rw [raiseWindowOverflow, if_neg]
  rcases h with h | h <;> simp [h]

theorem raiseWindowOverflow_of_taken (hie : s.status.ie = true) (hipri : 2 < s.status.ipri.toNat) :
    raiseWindowOverflow s = enterException s 2#6 s.pc true := by
  simp [raiseWindowOverflow, hie, hipri]

/-- `s` after RESTORE, before the overflow is examined (R332). -/
def State.restored (s : State) : State := (s.setCwp (s.status.cwp + 1#5)).finish

theorem exec_restore :
    exec .restore s =
      if s.status.cwp = s.wvalid.hiLimit then raiseWindowOverflow s.restored else .next s.restored := rfl

end

/-- Settles O45: the request is not made or dropped. -/
theorem restoreClosesAWindow : Obligations.RestoreClosesAWindow := by
  intro s hquiet
  rw [exec_restore]
  split
  · next hlimit => exact raiseWindowOverflow_of_masked (s := s.restored) (hquiet.resolve_left (not_not_intro hlimit))
  · rfl

/-- Settles O46: the entry takes back the window that the RESTORE has closed. -/
theorem restoreAtTheLimitEntersTheOverflowHandler : Obligations.RestoreAtTheLimitEntersTheOverflowHandler := by
  intro s e he hlimit hie hipri vector
  have hexec : exec .restore s = enterException s.restored 2#6 s.nextPc true := by
    rw [exec_restore, if_pos hlimit]
    exact raiseWindowOverflow_of_taken (s := s.restored) hie hipri
  have hvector : vector = (vectorAddr s.cfg 2#6).toNat := by rw [vectorAddr_eq]; rfl
  have hcwp : s.status.cwp + 1#5 - 1#5 = s.status.cwp := BitVec.add_sub_cancel ..
  have hplace : (s.restored.enterStatus 2#6 true).phys regO7 = some e := by
    show physReg s.cfg (s.status.cwp + 1#5 - 1#5) 15#5 = some e
    rwa [hcwp]
  rw [hexec, hvector]
  refine ⟨fun hp => ?_, enterException_of_no_vector hplace⟩
  rw [enterException_of_vector hplace hp, State.entered, codeAddr_eq, returnValue_eq]
  simp [State.restored, State.setPhys, State.enterStatus, State.nextPc, hcwp]

/-! ## TRAP and TRET -/

/-- Settles O48: one entry sequence with the next instruction as the return location. -/
theorem trapEntersItsHandler : Obligations.TrapEntersItsHandler := by
  intro s imm6 hslot vector
  have hexec : exec (.trap imm6) s = enterException s imm6 (s.pc + 2#33) true := outsideDelaySlot_of_none hslot
  rw [hexec, show vector = (vectorAddr s.cfg imm6).toNat by rw [vectorAddr_eq]]
  refine ⟨fun d hd => ?_, fun hcwp => ?_⟩
  · have hplace : (s.enterStatus imm6 true).phys regO7 = some d := hd
    refine ⟨fun hp => ?_, enterException_of_no_vector hplace⟩
    rw [enterException_of_vector hplace hp, State.entered, codeAddr_eq, returnValue_eq, ← hslot]
    rfl
  · exact enterException_of_no_window (physReg_prevWindow_outside (by decide) hcwp)

/-- Settles O49, from `exec_tret`. -/
theorem trapReturnRestoresStatus : Obligations.TrapReturnRestoresStatus := by
  intro s a i hi hslot
  refine ⟨rfl, ?_⟩
  rw [exec_tret hslot hi, codeAddr_eq]
  rfl

/-! ## The external interrupt -/

/-- Settles O51: one entry sequence, after the sample is taken, with the instruction not yet executed as the return
location. -/
theorem acceptedInterruptEntersItsHandler : Obligations.AcceptedInterruptEntersItsHandler := by
  intro s number rest hirqs hp hbt hie hipri vector
  have haccept : s.acceptsInterrupt = true := acceptsInterrupt_iff.mpr (by simp [hp, hbt, hie, hipri, hirqs])
  have hstep : step s = enterException s.afterSample number s.pc true := by
    simp [step, haccept, takeInterrupt, State.sample, hirqs]
  rw [hstep, show vector = (vectorAddr s.cfg number).toNat by rw [vectorAddr_eq]]
  refine ⟨fun d hd => ?_, fun hcwp => ?_⟩
  · have hplace : (s.afterSample.enterStatus number true).phys regO7 = some d := hd
    refine ⟨fun hvector => ?_, enterException_of_no_vector hplace⟩
    rw [enterException_of_vector hplace hvector, State.entered, codeAddr_eq, returnValue_eq]
    simp [hp, hbt, hirqs]
  · exact enterException_of_no_window (s := s.afterSample) (physReg_prevWindow_outside (by decide) hcwp)

end Sys2Proof.Machine
end

section
/-! RDCTL and WRCTL (45_window_trap_control R338 to R343): the bits of a control register as a number, the fields of a
number written to one, and the accesses that have no meaning (10_state R64 to R67). -/

namespace Sys2Proof.Machine

/-! ## Bits and fields -/

/-- The number that STATUS or ISTATUS reads as (R56). -/
theorem StatusReg.toBits_toNat (r : StatusReg) :
    r.toBits.toNat =
      2 ^ 15 * r.ie.toNat + 2 ^ 9 * r.ipri.toNat + 2 ^ 4 * r.cwp.toNat + 8 * r.flags.n.toNat + 4 * r.flags.v.toNat +
        2 * r.flags.z.toNat + r.flags.c.toNat := by
  simp only [StatusReg.toBits, Flags.toBits, append_toNat, BitVec.toNat_ofBool]
  omega

/-- The number that WVALID reads as (R63, D35). -/
theorem WvalidReg.toBits_toNat (w : WvalidReg) :
    w.toBits.toNat = 2 ^ 5 * w.hiLimit.toNat + w.loLimit.toNat := by
  simp only [WvalidReg.toBits, append_toNat, BitVec.toNat_ofNat]
  omega

/-- A half-word, zero-extended (D21). -/
theorem zeroExtend_half_eq (h : Half) : h.zeroExtend 32 = BitVec.ofNat 32 h.toNat := by
  rw [BitVec.ofNat_toNat]

/-- The fields of the low half-word of a register (R341, D22). -/
theorem StatusReg.ofBits_low_half (x : Word) :
    StatusReg.ofBits (x.extractLsb' 0 16) =
      { ie := x.getLsbD 15, ipri := x.extractLsb' 9 6, cwp := x.extractLsb' 4 5
        flags := { n := x.getLsbD 3, v := x.getLsbD 2, z := x.getLsbD 1, c := x.getLsbD 0 } } := by
  simp [StatusReg.ofBits, Flags.ofBits]

theorem WvalidReg.ofBits_low_half (x : Word) :
    WvalidReg.ofBits (x.extractLsb' 0 16) = { hiLimit := x.extractLsb' 5 5, loLimit := x.extractLsb' 0 5 } := by
  simp [WvalidReg.ofBits]

/-! ## RDCTL -/

section
variable {s : State} {a : RegIx} {i : Fin 512}

/-- RDCTL of a control register that is read without a change of the state. -/
theorem exec_rdctl_endsAs {k : BitVec 11} {v w : Word} (ha : s.phys a = some i) (hk : s.k = k)
    (hread : readControl s k = .next (v, s)) (hv : v = w) :
    ∃ t, exec (.rdctl a) s = .next t ∧ s.endsAs (s.setPhys i w) t := by
  rw [exec, execRdctl, hk, hread]
  exact writeAndFinish_endsAs ha hv

end

/-- Settles O52: the three registers that RDCTL reads without a change of the state. -/
theorem readControlRegisterDeliversItsBits : Obligations.ReadControlRegisterDeliversItsBits := by
  intro s a i ha bits
  refine ⟨fun hk => exec_rdctl_endsAs ha hk rfl ?_, fun hk => exec_rdctl_endsAs ha hk rfl ?_,
    fun hk => exec_rdctl_endsAs ha hk rfl ?_⟩
  · rw [zeroExtend_half_eq, StatusReg.toBits_toNat]
  · rw [zeroExtend_half_eq, StatusReg.toBits_toNat]
  · rw [zeroExtend_half_eq, WvalidReg.toBits_toNat]

/-! ## WRCTL -/

section
variable {s : State} {a : RegIx} {i : Fin 512}

/-- A write to STATUS, where there is a next word to look at (R342, D23). -/
theorem writeControl_status {v w : Half} (hfetch : fetchHalf s s.nextPc = .next w) :
    writeControl s 0#11 v =
      if w = nopWord then .next { s with status := StatusReg.ofBits v } else .fault .wrctlNotFollowedByNop := by
  show andThen (fetchHalf s s.nextPc) _ = _
  rw [hfetch, andThen_next]

theorem writeControl_istatus (v : Half) :
    writeControl s 1#11 v = .next { s with istatus := StatusReg.ofBits v } := rfl

theorem writeControl_wvalid (v : Half) :
    writeControl s 2#11 v =
      .next { s with wvalid := if s.cfg.wvalidWritable then WvalidReg.ofBits v else s.wvalid } := by
  show Host.Outcome.next _ = _
  split <;> rfl

/-- WRCTL that leaves `u` and then ends. -/
theorem exec_wrctl_endsAs {k : BitVec 11} {u : State} (ha : s.phys a = some i) (hk : s.k = k)
    (hwrite : writeControl s k ((s.regs.get i).extractLsb' 0 16) = .next u) (hb : u.bt = s.bt) (hp : u.pc = s.pc) :
    ∃ t, exec (.wrctl a) s = .next t ∧ s.endsAs u t := by
  refine endsAs_of_finish ?_ hb hp
  rw [exec, execWrctl, andThen_readReg ha, hk, hwrite, andThen_next]

/-- WRCTL that stops. -/
theorem exec_wrctl_fault {k : BitVec 11} {e : Fault} (ha : s.phys a = some i) (hk : s.k = k)
    (hwrite : writeControl s k ((s.regs.get i).extractLsb' 0 16) = .fault e) : exec (.wrctl a) s = .fault e := by
  rw [exec, execWrctl, andThen_readReg ha, hk, hwrite, andThen_fault]

end

/-- Settles O54: the fields written are those of the low half-word. -/
theorem writeControlRegisterSetsItsFields : Obligations.WriteControlRegisterSetsItsFields := by
  intro s a i ha x fields next word
  have hfields : StatusReg.ofBits (x.extractLsb' 0 16) = fields := StatusReg.ofBits_low_half x
  rw [← hfields, ← WvalidReg.ofBits_low_half]
  refine ⟨fun hk hp hs => ?_, fun hk => exec_wrctl_endsAs ha hk (writeControl_istatus _) rfl rfl,
    fun hk => exec_wrctl_endsAs ha hk (writeControl_wvalid _) rfl rfl⟩
  have hwrite := writeControl_status (v := x.extractLsb' 0 16) (fetchHalf_of_loaded (a := s.nextPc) hp hs)
  exact ⟨fun hnop => exec_wrctl_endsAs ha hk (hwrite.trans (if_pos hnop)) rfl rfl,
    fun hnop => exec_wrctl_fault ha hk (hwrite.trans (if_neg hnop))⟩

/-! ## CLR_IE, SET_IE and the numbers without a register -/

section
variable {s : State} {k : BitVec 11}

/-- A read of CLR_IE or SET_IE draws a free value (R64, R65, log 7). -/
theorem readControl_enable (hk : k = 8#11 ∨ k = 9#11) : readControl s k = .next (drawFree s) := by
  rcases hk with rfl | rfl <;> rfl

theorem readControl_reserved (hlow : 3 ≤ k.toNat) (hhigh : k.toNat ≤ 7) :
    readControl s k = .fault .reservedControlRegister := by
  rw [readControl, if_neg (by omega), if_neg (by omega), if_neg (by omega), if_pos (by omega)]

theorem writeControl_reserved (v : Half) (hlow : 3 ≤ k.toNat) (hhigh : k.toNat ≤ 7) :
    writeControl s k v = .fault .reservedControlRegister := by
  rw [writeControl, if_neg (by omega), if_neg (by omega), if_neg (by omega), if_pos (by omega)]

theorem readControl_undefined (hlow : 10 ≤ k.toNat) : readControl s k = .fault .undefinedControlRegister := by
  rw [readControl, if_neg (by omega), if_neg (by omega), if_neg (by omega), if_neg (by omega), if_neg (by omega)]

theorem writeControl_undefined (v : Half) (hlow : 10 ≤ k.toNat) :
    writeControl s k v = .fault .undefinedControlRegister := by
  rw [writeControl, if_neg (by omega), if_neg (by omega), if_neg (by omega), if_neg (by omega), if_neg (by omega),
    if_neg (by omega)]

end

theorem exec_rdctl_fault {s : State} {a : RegIx} {e : Fault} (hread : readControl s s.k = .fault e) :
    exec (.rdctl a) s = .fault e := by
  rw [exec, execRdctl, hread, andThen_fault]

/-- Settles O53: the value written is not looked at, the value read is the one drawn. -/
theorem clearAndSetInterruptEnable : Obligations.ClearAndSetInterruptEnable := by
  intro s a i ha
  refine ⟨fun hk => exec_wrctl_endsAs ha hk rfl rfl rfl, fun hk => exec_wrctl_endsAs ha hk rfl rfl rfl, fun hk => ?_⟩
  rw [exec, execRdctl, readControl_enable hk, andThen_next]
  exact endsAs_of_finish (writeAndFinish_eq_next.mpr ⟨i, ha, rfl⟩) rfl rfl

/-- Settles O55: neither a read nor a write has a row for these numbers. -/
theorem otherControlRegistersFault : Obligations.OtherControlRegistersFault := by
  intro s a i ha
  exact ⟨fun hlow hhigh => ⟨exec_rdctl_fault (readControl_reserved hlow hhigh),
      exec_wrctl_fault ha rfl (writeControl_reserved _ hlow hhigh)⟩,
    fun hlow => ⟨exec_rdctl_fault (readControl_undefined hlow),
      exec_wrctl_fault ha rfl (writeControl_undefined _ hlow)⟩⟩

end Sys2Proof.Machine
end

section
/-! The invariant at reset (70_reset_and_hazards R420, R421). -/

namespace Sys2Proof.Machine

/-- The address of the first instruction is even (D4). -/
theorem resetPc_even (c : Config) : c.resetPc.getLsbD 0 = false := by
  rw [bit0_clear_iff, Config.resetPc, append_toNat]
  simp

/-- Settles O59: the reset event sets the program flow itself and keeps the canonical forms. -/
theorem invariantHoldsAtReset : Obligations.InvariantHoldsAtReset := by
  have hreset : ∀ s : State, Memory.wf s.mem = true → risingAddrs s.written = true → State.Inv s.resetFrom :=
    fun s hmem hwritten =>
      { memWf := hmem
        writtenRising := hwritten
        pcEven := resetPc_even s.cfg
        targetEven := nofun
        kOnlyAfterPfx := fun _ => rfl
        pfxOutsideDelaySlot := nofun }
  exact ⟨fun c => hreset (State.resetWith c) rfl rfl, hreset⟩

end Sys2Proof.Machine
end
